-- ==== Sys2Proof/Word.lean ====
section
/-! DEFINITION. The widths of everything that crosses the block's boundary, and the word a clock edge selects
an operation with (R70, R82, R83). -/

namespace Sys2Proof

/-- A 4-bit mask of input channels: bit `k` is channel `k` (R13, R72). -/
abbrev Mask := BitVec 4

/-- The 7-bit selector word `st f e` of format TICK (R82). -/
abbrev Sel := BitVec 7

/-- The 2-bit control word `rst tick` of format CTRL (R83). -/
abbrev Ctrl := BitVec 2

/-- A packed byte of the result (R52). -/
abbrev Byte := BitVec 8

/-- A duty value, 7 bits unsigned, legal values 0 to 100 (R27). -/
abbrev Duty := BitVec 7

/-- What a clock edge selects its operation with: the control word (R83), or, when that is `01`, the
selector word (R82). -/
inductive FetchWord where
  | ctrl (w : Ctrl)
  | tick (sel : Sel)
  deriving DecidableEq, Repr

/-- Why the decoder names no operation. -/
inductive DecodeError where
  /-- CTRL `01` is not a row of the opcode table: it means "decode `sel`" (R83). -/
  | ctrlSelectsTick
  /-- No row of format TICK matches. No selector word gives this: the rows cover every word once the
  words of R86 (a) are read with `f = 0`. -/
  | noRow (sel : Sel)
  deriving DecidableEq, Repr

end Sys2Proof
end

