-- ==== Sys2Proof/Syntax.lean ====
section
/-! DEFINITION. The operations of the block: one constructor for each row of the opcode table (R84). -/

namespace Sys2Proof

/-- The operations, in the table's order, one constructor a row. Where a row leaves bits of the EdgeMask
unexamined, the constructor carries the whole EdgeMask `e` of the tick; which values of `e` the row
admits is `Instr.wellFormed`. A row whose EdgeMask is fixed carries none. -/
inductive Instr where
  /-- HOLD_FIRE, row `00 1 ----` (R143). -/
  | holdFireP (e : Mask)
  /-- HOLD_FIRE, row `01 1 ----` (R143). -/
  | holdFireS (e : Mask)
  /-- HOLD_FIRE, row `10 1 ----` (R143). -/
  | holdFireF (e : Mask)
  /-- P_IDLE, row `00 0 0000` (R144). -/
  | pIdle
  /-- P_PUSH0, row `00 0 ---1` (R145). -/
  | pPush0 (e : Mask)
  /-- P_PUSH1, row `00 0 --10` (R146). -/
  | pPush1 (e : Mask)
  /-- P_CLRBLK, row `00 0 -100` (R147). -/
  | pClrblk (e : Mask)
  /-- P_ADV, row `00 0 1000` (R148). -/
  | pAdv
  /-- S_IDLE, row `01 0 0000` (R149). -/
  | sIdle
  /-- S_PUSH0, row `01 0 ---1` (R152). -/
  | sPush0 (e : Mask)
  /-- S_PUSH1, row `01 0 --10` (R153). -/
  | sPush1 (e : Mask)
  /-- S_CLRALL, row `01 0 -100` (R154). -/
  | sClrall (e : Mask)
  /-- S_ADV, row `01 0 1000` (R155). -/
  | sAdv
  /-- F_IDLE, row `10 0 00--` (R156). -/
  | fIdle (e : Mask)
  /-- F_CLRALL, row `10 0 -1--` (R157). -/
  | fClrall (e : Mask)
  /-- F_PACK, row `10 0 10--` (R158). -/
  | fPack (e : Mask)
  /-- SB_RAMP, row `11 0 0000` (R160). -/
  | sbRamp
  /-- SB_WAKE, row `11 0 ---1` (R159). -/
  | sbWake0 (e : Mask)
  /-- SB_WAKE, row `11 0 --10` (R159). -/
  | sbWake1 (e : Mask)
  /-- SB_WAKE, row `11 0 -100` (R159). -/
  | sbWake2 (e : Mask)
  /-- SB_WAKE, row `11 0 1000` (R159). -/
  | sbWake3
  /-- RESET, control row `1-`; the operand is the `tick` pin, which the row does not examine (R220). -/
  | reset (tick : Bool)
  /-- NOTICK, control row `00` (R161). -/
  | notick
  deriving DecidableEq, Repr

end Sys2Proof
end

