-- ==== Sys2Proof/WellFormed.lean ====
section
/-! DEFINITION. Which EdgeMasks a row admits: the `e[3:0]` column of the opcode map (R84). -/

namespace Sys2Proof

/-- `e` matches a row's pattern: the examined bits `mask` have the values `value`. -/
def edgeMatches (e mask value : Mask) : Bool := e &&& mask == value

/-- The EdgeMask an operation carries is one its row admits (R84). -/
def Instr.wellFormed : Instr → Bool
  | .holdFireP _ => true
  | .holdFireS _ => true
  | .holdFireF _ => true
  | .pIdle => true
  | .pPush0 e => edgeMatches e 0b0001#4 0b0001#4
  | .pPush1 e => edgeMatches e 0b0011#4 0b0010#4
  | .pClrblk e => edgeMatches e 0b0111#4 0b0100#4
  | .pAdv => true
  | .sIdle => true
  | .sPush0 e => edgeMatches e 0b0001#4 0b0001#4
  | .sPush1 e => edgeMatches e 0b0011#4 0b0010#4
  | .sClrall e => edgeMatches e 0b0111#4 0b0100#4
  | .sAdv => true
  | .fIdle e => edgeMatches e 0b1100#4 0b0000#4
  | .fClrall e => edgeMatches e 0b0100#4 0b0100#4
  | .fPack e => edgeMatches e 0b1100#4 0b1000#4
  | .sbRamp => true
  | .sbWake0 e => edgeMatches e 0b0001#4 0b0001#4
  | .sbWake1 e => edgeMatches e 0b0011#4 0b0010#4
  | .sbWake2 e => edgeMatches e 0b0111#4 0b0100#4
  | .sbWake3 => true
  | .reset _ => true
  | .notick => true

end Sys2Proof
end

