-- ==== Sys2Proof/Decode.lean ====
section
/-! DEFINITION. The decoder of the control word and the selector word, read off the opcode map row by row
(R83, R84), and the encoder. -/

namespace Sys2Proof

/-- The edge field `e`, bits 3:0 of the selector word (R82). -/
def Sel.edgeField (w : Sel) : Mask := w.extractLsb' 0 4

/-- The fire field `f`, bit 4 of the selector word (R82). -/
def Sel.fireField (w : Sel) : Bool := w.getLsbD 4

/-- The state field `st`, bits 6:5 of the selector word (R82). -/
def Sel.stateField (w : Sel) : BitVec 2 := w.extractLsb' 5 2

/-- One row of format TICK: the word is the row's when its bits under `mask` are `value`; `build` makes the
operation from the edge field. -/
structure SelRow where
  value : Sel
  mask : Sel
  build : Mask → Instr

/-- The 21 rows of format TICK, in the order of the opcode map, with its match and mask columns (R84). -/
def selRows : List SelRow :=
  [ ⟨0x10#7, 0x70#7, .holdFireP⟩,
    ⟨0x30#7, 0x70#7, .holdFireS⟩,
    ⟨0x50#7, 0x70#7, .holdFireF⟩,
    ⟨0x00#7, 0x7F#7, fun _ => .pIdle⟩,
    ⟨0x01#7, 0x71#7, .pPush0⟩,
    ⟨0x02#7, 0x73#7, .pPush1⟩,
    ⟨0x04#7, 0x77#7, .pClrblk⟩,
    ⟨0x08#7, 0x7F#7, fun _ => .pAdv⟩,
    ⟨0x20#7, 0x7F#7, fun _ => .sIdle⟩,
    ⟨0x21#7, 0x71#7, .sPush0⟩,
    ⟨0x22#7, 0x73#7, .sPush1⟩,
    ⟨0x24#7, 0x77#7, .sClrall⟩,
    ⟨0x28#7, 0x7F#7, fun _ => .sAdv⟩,
    ⟨0x40#7, 0x7C#7, .fIdle⟩,
    ⟨0x44#7, 0x74#7, .fClrall⟩,
    ⟨0x48#7, 0x7C#7, .fPack⟩,
    ⟨0x60#7, 0x7F#7, fun _ => .sbRamp⟩,
    ⟨0x61#7, 0x71#7, .sbWake0⟩,
    ⟨0x62#7, 0x73#7, .sbWake1⟩,
    ⟨0x64#7, 0x77#7, .sbWake2⟩,
    ⟨0x68#7, 0x7F#7, fun _ => .sbWake3⟩ ]

/-- A word is a row's (R84). -/
def selRowMatches (w : Sel) (r : SelRow) : Bool := w &&& r.mask == r.value

/-- The words 0x70 to 0x7F are never formed; a decoder treats one as the same word with `f = 0` (R86 (a)). -/
def normalizeSel (w : Sel) : Sel := if w &&& 0x70#7 = 0x70#7 then w &&& 0x6F#7 else w

/-- The operation a selector word selects (R84, R86). -/
def decodeSel (w : Sel) : Except DecodeError Instr :=
  match selRows.find? (selRowMatches (normalizeSel w)) with
  | some r => .ok (r.build (Sel.edgeField w))
  | none => .error (.noRow w)

/-- The operation a control word selects: `1-` is RESET, `00` is NOTICK, `01` is no row (R83). -/
def decodeCtrl (w : Ctrl) : Except DecodeError Instr :=
  if w &&& 0b10#2 = 0b10#2 then .ok (.reset (w.getLsbD 0))
  else if w = 0b00#2 then .ok .notick
  else .error .ctrlSelectsTick

/-- The decoder: total, and where it names no operation it says why. -/
def decode : FetchWord → Except DecodeError Instr
  | .ctrl w => decodeCtrl w
  | .tick w => decodeSel w

/-- A selector word from its upper three bits `st f` and its edge field (R82). -/
def selWord (stf : BitVec 3) (e : Mask) : Sel := stf ++ e

/-- The word of an operation, from the `st`, `f` and `e` columns of the opcode map and from format CTRL. -/
def encode : Instr → FetchWord
  | .holdFireP e => .tick (selWord 0b001#3 e)
  | .holdFireS e => .tick (selWord 0b011#3 e)
  | .holdFireF e => .tick (selWord 0b101#3 e)
  | .pIdle => .tick (selWord 0b000#3 0b0000#4)
  | .pPush0 e => .tick (selWord 0b000#3 e)
  | .pPush1 e => .tick (selWord 0b000#3 e)
  | .pClrblk e => .tick (selWord 0b000#3 e)
  | .pAdv => .tick (selWord 0b000#3 0b1000#4)
  | .sIdle => .tick (selWord 0b010#3 0b0000#4)
  | .sPush0 e => .tick (selWord 0b010#3 e)
  | .sPush1 e => .tick (selWord 0b010#3 e)
  | .sClrall e => .tick (selWord 0b010#3 e)
  | .sAdv => .tick (selWord 0b010#3 0b1000#4)
  | .fIdle e => .tick (selWord 0b100#3 e)
  | .fClrall e => .tick (selWord 0b100#3 e)
  | .fPack e => .tick (selWord 0b100#3 e)
  | .sbRamp => .tick (selWord 0b110#3 0b0000#4)
  | .sbWake0 e => .tick (selWord 0b110#3 e)
  | .sbWake1 e => .tick (selWord 0b110#3 e)
  | .sbWake2 e => .tick (selWord 0b110#3 e)
  | .sbWake3 => .tick (selWord 0b110#3 0b1000#4)
  | .reset t => .ctrl (0b1#1 ++ BitVec.ofBool t)
  | .notick => .ctrl 0b00#2

/-- The word the opcode table means by `w` in a row of `nbits` bits. The table's two formats have widths 7
and 2; a width of 2 is format CTRL and any other width up to a byte is format TICK (log entry 5). A number
that does not fit the format is no word. -/
def tableWord (nbits w : Nat) : Option FetchWord :=
  if nbits ≤ 2 then
    if w < 4 then some (.ctrl (BitVec.ofNat 2 w)) else none
  else if nbits ≤ 8 then
    if w < 128 then some (.tick (BitVec.ofNat 7 w)) else none
  else none

/-- The instruction the decoder reads from a word of the opcode table. -/
def decodeTableWord (nbits w : Nat) : Option Instr :=
  match tableWord nbits w with
  | none => none
  | some fw =>
    match decode fw with
    | .ok i => some i
    | .error _ => none

end Sys2Proof
end

