-- ==== Sys2Proof/Config.lean ====
section
/-! DEFINITION. The constants of R10, the parameters of R11, and the values the spec leaves open. -/

namespace Sys2Proof

/-- N_IN, the number of input channels (R10). -/
abbrev Config.nIn : Nat := 4
/-- HOLD_MS, the hold threshold in milliseconds (R10). -/
abbrev Config.holdMs : Nat := 3000
/-- STEP, the duty-cycle change of one standby tick (R10). -/
abbrev Config.step : Nat := 5
/-- DUTY_MIN, the lower duty bound (R10). -/
abbrev Config.dutyMin : Nat := 0
/-- DUTY_MAX, the upper duty bound (R10). -/
abbrev Config.dutyMax : Nat := 100
/-- BLOCK, the entries of a character block and the bits of a packed byte (R10). -/
abbrev Config.block : Nat := 8

/-- The parameters the source leaves open (R11). They are an argument of the model: `State` carries them
because the step has no other argument, and no operation writes them (log entry 3). -/
structure Params where
  /-- CAPACITY, the number of buffer entries (R11, D3). -/
  capacity : Nat
  /-- CHORD_MASK, the two channels of the hold gesture (R11, D4). -/
  chordMask : Mask
  /-- TIME_W, the width of `now_ms` in bits (R11, D5). -/
  timeW : Nat
  deriving DecidableEq, Repr

/-- How many channels a mask holds. -/
def channelCount (m : Mask) : Nat :=
  ((List.range Config.nIn).filter fun k => m.getLsbD k).length

/-- The constraints of R11: at least one entry, exactly two chord channels, 3000 representable. -/
abbrev Params.wf (p : Params) : Prop :=
  1 ≤ p.capacity ∧ channelCount p.chordMask = 2 ∧ 12 ≤ p.timeW

/-- ceil(log2 n) for `n ≥ 1`: the least `k` with `n ≤ 2 ^ k`. -/
def ceilLog2 (n : Nat) : Nat := ((List.range n).find? fun k => n ≤ 2 ^ k).getD 0

/-- CNT_W = ceil(log2(CAPACITY + 1)), the width of `input_count` and `count_o` (R11, R24). -/
def Params.cntW (p : Params) : Nat := ceilLog2 (p.capacity + 1)

/-- LEN_W = ceil(log2(floor(CAPACITY / 8) + 1)), the width of `result_len` (R11). -/
def Params.lenW (p : Params) : Nat := ceilLog2 (p.capacity / Config.block + 1)

/-- The values the spec's examples use (R11). DESIGN CHOICE, log entry 3: only `State.reset` uses them; the
chord of the examples is no default (D4), and no statement may rest on it. Unsafe. -/
def Params.reference : Params := { capacity := 512, chordMask := 0b0011#4, timeW := 32 }

/-- FREE VALUE (log entry 9): the content of `duty_o` when `ind_cmd` is not IND_DUTY, which R75 calls not
meaningful. Applied to the whole state of the machine. -/
opaque Config.freeDutyO : {σ : Type} → σ → Duty

/-- FREE VALUE (log entry 9): the content of a `w`-bit result port when `result_valid = 0`, which R75 calls not
meaningful; the Bool tells `result_len` (false) from `result_bytes` (true). Applied to the whole state. -/
opaque Config.freeResultPort : {σ : Type} → Bool → (w : Nat) → σ → BitVec w

/-- FREE VALUE (log entry 10): the output channel that shows the blink pattern of an indicator code, which the
source does not give (R76, R89, U5). -/
opaque Config.blinkChannel : BitVec 3 → Nat

/-- FREE VALUE (log entry 10): the `pattern_id` of the blink pattern of an indicator code, which the source
does not give (R76, R89, U3). -/
opaque Config.blinkPatternId : BitVec 3 → Nat

end Sys2Proof
end

