-- ==== Sys2Proof/Machine/State.lean ====
section
/-! DEFINITION. The state of the block (R20 to R28), what crosses its pins on a clock edge (R70, R75), its state
after reset (R34, R220), and the ways a step can stop. -/

namespace Sys2Proof.Machine

/-- The four control states, under the spec's short names (R3, R25, R80). -/
inductive FsmState where
  /-- P, AccumulatingPrimary, input_mode_0: the initial state. -/
  | P
  /-- S, AccumulatingSecondary, input_mode_1. -/
  | S
  /-- F, Finalize. -/
  | F
  /-- SB, Standby. -/
  | SB
  deriving DecidableEq, Repr

/-- A buffer entry: unset, or a bit (R23, R81). -/
inductive Entry where
  | unset
  | zero
  | one
  deriving DecidableEq, Repr

/-- The buffer: the entries that hold a bit, as pairs of index and bit with strictly rising indices. An index
that is not listed reads `unset`, the reset contents (R23, R34; log entry 7). -/
abbrev Memory := List (Nat × Bool)

/-- The indicator command of a tick (R76). IND_DUTY carries the value of `duty_o`; the other commands give
`duty_o` no meaning (R75). -/
inductive IndCmd where
  | none
  | slow
  | fast
  | fastest
  | allOn
  | duty (d : Duty)
  deriving DecidableEq, Repr

/-- The error kind a tick reports (R79). BufferFull reports nothing (R191). -/
inductive ErrKind where
  | none
  | misaligned
  | invariantViolated
  deriving DecidableEq, Repr

/-- The output record of one tick (R75). `result` is the list of bytes of a successful F_PACK (R78). -/
structure Output where
  ind : IndCmd
  flash : BitVec 2
  result : Option (List Byte)
  err : ErrKind
  deriving DecidableEq, Repr

/-- Every field at its idle value (R75). -/
def Output.idle : Output := { ind := .none, flash := 0b00#2, result := none, err := .none }

/-- The input pins on one rising edge of `clk` (R70). -/
structure Pins where
  rst : Bool
  tick : Bool
  btn : Mask
  sampleOk : Bool
  /-- `now_ms`; the pin has TIME_W bits, so a larger number stands for its low TIME_W bits (log entry 12). -/
  nowMs : Nat
  deriving DecidableEq, Repr

/-- The state of the block. The first eight fields are the eight elements of R20; the last three are the
model's own: the parameters (R11), the pin samples of the edges to come, and the output record of the
latest edge (R75). -/
structure State where
  /-- The InputMask of the previous sampled tick (R21). -/
  prevMask : Mask
  /-- The HoldTimer: the `now_ms` of the chord's onset, if a timer runs (R22). -/
  hold : Option Nat
  /-- The InputBuffer (R23). -/
  buf : Memory
  /-- The cursor: the next free slot (R24). -/
  inputCount : Nat
  /-- The control state, the analogue of a program counter (R25). -/
  state : FsmState
  /-- The state to resume after Standby (R26). -/
  lastActiveState : FsmState
  /-- The ramp value (R27). -/
  dutyCycle : Duty
  /-- The ramp direction: true is increasing (R28). -/
  rampUp : Bool
  /-- The parameters; written by nothing (R11; log entry 3). -/
  params : Params
  /-- The pin samples of the clock edges to come, the next one first (log entry 1). -/
  pending : List Pins
  /-- The output record of the latest clock edge (R75; log entry 2). -/
  out : Output
  deriving DecidableEq, Repr

/-- The block with parameters `p` right after a reset edge, no further edge listed (R34, R220). Its output
record is that of the reset edge: IND_SLOW, all else idle (R220). -/
def State.resetWith (p : Params) : State :=
  { prevMask := 0b0000#4
    hold := none
    buf := []
    inputCount := 0
    state := .P
    lastActiveState := .P
    dutyCycle := 0#7
    rampUp := true
    params := p
    pending := []
    out := { Output.idle with ind := .slow } }

/-- The block right after reset, with the parameter values of the spec's examples (log entry 3). -/
def State.reset : State := State.resetWith Params.reference

/-- Why the machine stops. None of the block's own error kinds stops it (R190). -/
inductive Fault where
  /-- An access to a buffer index at or above CAPACITY, an address that does not exist (R58). Raised by PUSH and
  PACK only, and only where `input_count` exceeds CAPACITY, which no run from reset reaches (INV1). Safe. -/
  | bufferIndexOutOfRange (index : Nat)
  deriving DecidableEq, Repr

/-- Why an operation has no meaning. -/
inductive Refusal where
  /-- An instruction without a meaning yet; raised by `exec` alone, and by no arm of it. Safe. -/
  | notModelled (mnemonic : String)
  /-- The decoder names no operation for the word; raised by `step`. No word that the block forms is such a
  word (R86 (b)). Safe. -/
  | undecoded (e : DecodeError)
  deriving DecidableEq, Repr

/-- What an operation answers. -/
abbrev Result := Host.Outcome State Fault Refusal

end Sys2Proof.Machine
end

