-- ==== Sys2Proof/Machine/Operands.lean ====
section
/-! DEFINITION. The operands of the operations (R88) and the encodings of what they are made of: the state code,
the selector word, the control word, the buffer entry, the modular difference of two instants. -/

namespace Sys2Proof.Machine

/-- The 2-bit code shared by `state`, `last_active_state` and `state_o` (R80). -/
def FsmState.code : FsmState → BitVec 2
  | .P => 0b00#2
  | .S => 0b01#2
  | .F => 0b10#2
  | .SB => 0b11#2

/-- The selector word of a tick: `st` above `fire` above the EdgeMask (R82). -/
def mkSel (st : FsmState) (fire : Bool) (e : Mask) : Sel :=
  selWord (st.code ++ BitVec.ofBool fire) e

/-- The control word of a clock edge: `rst` above `tick` (R83). -/
def mkCtrl (p : Pins) : Ctrl := BitVec.ofBool p.rst ++ BitVec.ofBool p.tick

/-- The entry that holds a bit (R81). -/
def Entry.ofBit (b : Bool) : Entry := if b then .one else .zero

/-- The number a packed entry contributes before it is shifted into place (R52). -/
def Entry.bitVal : Entry → Nat
  | .one => 1
  | .zero => 0
  | .unset => 0

/-- The hardware form of a buffer entry: `set` above `val` (R81). -/
def Entry.code : Entry → BitVec 2
  | .unset => 0b00#2
  | .zero => 0b10#2
  | .one => 0b11#2

/-- `a - b` modulo `2 ^ w` (R14, R113). -/
def subMod (w a b : Nat) : Nat := (a + (2 ^ w - b % 2 ^ w)) % 2 ^ w

/-- The `now_ms` of an edge as the block reads it: TIME_W bits (R74; log entry 12). -/
def sampleNow (pr : Params) (p : Pins) : Nat := p.nowMs % 2 ^ pr.timeW

/-- The pins of an edge without reset and without a tick strobe (R71). -/
def Pins.idle : Pins := { rst := false, tick := false, btn := 0#4, sampleOk := false, nowMs := 0 }

end Sys2Proof.Machine
end

