-- ==== Sys2Proof/Machine/Flags.lean ====
section
/-! DEFINITION. The block's four flags (R29): computed within a tick, read within the same tick, never stored.
The fourth, `fire`, is the result of HOLD_EVAL (Machine/Ops.lean, R110). -/

namespace Sys2Proof.Machine

/-- `chord`: both designated channels are asserted, whatever the others are (R29, R111). -/
def chord (pr : Params) (mask : Mask) : Bool := mask &&& pr.chordMask == pr.chordMask

/-- `full`: the cursor stands at CAPACITY (R29, R120). -/
def full (s : State) : Bool := s.inputCount == s.params.capacity

/-- `aligned`: the cursor is a multiple of 8 (R29, R124). -/
def aligned (s : State) : Bool := s.inputCount % Config.block == 0

/-- `elapsed >= HOLD_MS`: the timer started at `t` is due at `now` (R110, R113). -/
def holdDue (pr : Params) (t now : Nat) : Bool := decide (Config.holdMs ≤ subMod pr.timeW now t)

end Sys2Proof.Machine
end

