-- ==== Sys2Proof/Machine/Ops.lean ====
section
/-! DEFINITION. The shared operations: access to the buffer, the micro-operations (R100 to R124, R180), the output
record (R75), the state transition with its entry action (R141, R142), and standby entry and return, the
block's trap and its return (R197, R198). -/

namespace Sys2Proof.Machine

/-! ### The buffer as memory (R50) -/

/-- The entry at an index; an index that is not listed is `unset` (R23). -/
def Memory.read : Memory → Nat → Entry
  | [], _ => .unset
  | (a, b) :: m, i => if a = i then Entry.ofBit b else Memory.read m i

/-- Put a bit at an index, keeping the indices rising. -/
def Memory.put : Memory → Nat → Bool → Memory
  | [], i, b => [(i, b)]
  | (a, c) :: m, i, b =>
    if i < a then (i, b) :: (a, c) :: m
    else if i = a then (i, b) :: m
    else (a, c) :: Memory.put m i b

/-- Drop an index: it reads `unset` again. -/
def Memory.erase : Memory → Nat → Memory
  | [], _ => []
  | (a, c) :: m, i => if a = i then Memory.erase m i else (a, c) :: Memory.erase m i

/-- Write an entry (R15). -/
def Memory.write (m : Memory) (i : Nat) : Entry → Memory
  | .unset => m.erase i
  | .zero => m.put i false
  | .one => m.put i true

/-- The canonical form: strictly rising indices, each one that exists. -/
abbrev Memory.wf (cap : Nat) (m : Memory) : Prop :=
  m.Pairwise (fun x y => x.1 < y.1) ∧ ∀ c ∈ m, c.1 < cap

/-- `MemWrite(i, 1, v)` (R15); an index that does not exist faults (R58). -/
def memWrite (s : State) (i : Nat) (v : Entry) : Except Fault State :=
  if i < s.params.capacity then .ok { s with buf := s.buf.write i v }
  else .error (.bufferIndexOutOfRange i)

/-! ### The output record (R75) -/

/-- Begin a tick operation: every field not emitted has its idle value (R15, R75). -/
def beginOp (s : State) : State := { s with out := Output.idle }

/-- `emit ind_cmd = c` (R76). -/
def emitInd (c : IndCmd) (s : State) : State := { s with out := { s.out with ind := c } }

/-- `emit flash`: bit `k` for a pushed bit of value `k` (R77). -/
def emitFlash (bit : Bool) (s : State) : State :=
  { s with out := { s.out with flash := if bit then 0b10#2 else 0b01#2 } }

/-- `emit result_valid = 1, result_len, result_bytes` (R78). -/
def emitResult (bs : List Byte) (s : State) : State := { s with out := { s.out with result := some bs } }

/-- `raise k`: report an error kind for this tick; it never stops the block (R15, R190). -/
def raiseErr (k : ErrKind) (s : State) : State := { s with out := { s.out with err := k } }

/-! ### Transitions and entry actions (R141, R142) -/

/-- The entry action of a state. P's buffer clear is RESET's alone (R142 (a), C2). -/
def entryAction (t : FsmState) (s : State) : State :=
  match t with
  | .P => emitInd .slow s
  | .S => emitInd .fast s
  | .F => emitInd .fastest s
  | .SB => emitInd .allOn { s with dutyCycle := 0#7, rampUp := true }

/-- `pc <- T`: set the state and run its entry action, as the last act of the tick (R15, R141). -/
def goTo (t : FsmState) (s : State) : State := entryAction t { s with state := t }

/-! ### The trap, its return, and the error recovery (R190 to R198) -/

/-- Standby entry (R197, R143): save `st`, go to SB. -/
def enterStandby (st : FsmState) (s : State) : State := goTo .SB { s with lastActiveState := st }

/-- Standby return (R198, R159): duty to 0, resume the saved state. -/
def leaveStandby (s : State) : State := goTo s.lastActiveState { s with dutyCycle := 0#7 }

/-- Report an error of F_PACK and return to P, buffer and cursor kept (R158, R192, R193). -/
def recoverToPrimary (k : ErrKind) (s : State) : State := goTo .P (raiseErr k s)

/-! ### Edge detector and hold timer -/

/-- EDGE: the rising edges of `mask`, and the mask stored unconditionally (R100). -/
def edge (mask : Mask) (s : State) : Mask × State :=
  (mask &&& ~~~s.prevMask, { s with prevMask := mask })

/-- The `fire` that HOLD_EVAL returns (R110). -/
def holdFires (mask : Mask) (now : Nat) (s : State) : Bool :=
  match s.hold with
  | none => false
  | some t => chord s.params mask && holdDue s.params t now

/-- The `hold` that HOLD_EVAL leaves (R110). -/
def holdNext (mask : Mask) (now : Nat) (s : State) : Option Nat :=
  if chord s.params mask then
    match s.hold with
    | none => some now
    | some t => if holdDue s.params t now then none else some t
  else none

/-- HOLD_EVAL (R110). -/
def holdEval (mask : Mask) (now : Nat) (s : State) : Bool × State :=
  (holdFires mask now s, { s with hold := holdNext mask now s })

/-! ### Bit accumulator -/

/-- PUSH (R120). A full buffer is BufferFull: silent, and no state changes (R191). -/
def push (bit : Bool) (s : State) : Except Fault (Bool × State) :=
  if full s then .ok (false, s)
  else
    match memWrite s s.inputCount (Entry.ofBit bit) with
    | .ok s' => .ok (true, { s' with inputCount := s'.inputCount + 1 })
    | .error r => .error r

/-- Clear `k` entries from `start` on, those of them that exist (R121). -/
def clearEntries (cap start : Nat) : Nat → Memory → Memory
  | 0, m => m
  | k + 1, m =>
    let m' := clearEntries cap start k m
    if start + k < cap then m'.write (start + k) .unset else m'

/-- CLEAR_BLOCK (R121): up to 8 entries, clamped to the buffer; the cursor stays. -/
def clearBlock (start : Nat) (s : State) : State :=
  { s with buf := clearEntries s.params.capacity start Config.block s.buf }

/-- The start of the block that holds the most recently written bit (R122). -/
def currentBlockStart (count : Nat) : Nat := (count - 1) / Config.block * Config.block

/-- CLEAR_CURRENT_BLOCK: clear that block and rewind the cursor to its start; nothing when nothing has been
written (R122). -/
def clearCurrentBlock (s : State) : State :=
  if s.inputCount = 0 then s
  else { clearBlock (currentBlockStart s.inputCount) s with inputCount := currentBlockStart s.inputCount }

/-- CLEAR_ALL: every entry unset, the cursor at 0 (R123; log entry 13). -/
def clearAll (s : State) : State := { s with buf := [], inputCount := 0 }

/-- What PACK returns (R124). -/
inductive PackResult where
  | bytes (bs : List Byte)
  | misaligned
  | invariantViolated
  deriving DecidableEq, Repr

/-- Some entry below the cursor is unset (R124, R125 (c)). -/
def holeBelowCursor (s : State) : Bool :=
  (List.range s.inputCount).any fun i => s.buf.read i == .unset

/-- Byte `j` of the packed result: the entry at the lowest index of the block is bit 7 (R52). -/
def packByte (m : Memory) (j : Nat) : Byte :=
  BitVec.ofNat 8
    ((List.range Config.block).map fun k => (m.read (Config.block * j + k)).bitVal <<< (7 - k)).sum

/-- PACK: alignment first, then the unset check, then the bytes in rising order (R124, R52). With the cursor above
CAPACITY it would read an entry that does not exist (R58; log entry 8). -/
def pack (s : State) : Except Fault PackResult :=
  if aligned s then
    if s.params.capacity < s.inputCount then .error (.bufferIndexOutOfRange s.params.capacity)
    else if holeBelowCursor s then .ok .invariantViolated
    else .ok (.bytes ((List.range (s.inputCount / Config.block)).map (packByte s.buf)))
  else .ok .misaligned

/-! ### Duty ramp -/

/-- RAMP_STEP: clamp, then reverse; the comparison comes before the assignment (R180). -/
def rampStep (s : State) : State :=
  if s.rampUp then
    if Config.dutyMax ≤ s.dutyCycle.toNat + Config.step then
      { s with dutyCycle := BitVec.ofNat 7 Config.dutyMax, rampUp := false }
    else { s with dutyCycle := BitVec.ofNat 7 (s.dutyCycle.toNat + Config.step) }
  else if s.dutyCycle.toNat ≤ Config.dutyMin + Config.step then
    { s with dutyCycle := BitVec.ofNat 7 Config.dutyMin, rampUp := true }
  else { s with dutyCycle := BitVec.ofNat 7 (s.dutyCycle.toNat - Config.step) }

/-! ### Reset -/

/-- The writes of RESET before its transition to P: every element of R20 (R220, R221). -/
def resetElements (s : State) : State :=
  { clearAll { s with prevMask := 0b0000#4, hold := none } with
    lastActiveState := .P
    dutyCycle := 0#7
    rampUp := true }

end Sys2Proof.Machine
end

