-- ==== Sys2Proof/Machine/Control.lean ====
section
/-! DEFINITION. The operations of format CTRL: RESET (R220) and NOTICK (R161). -/

namespace Sys2Proof.Machine

/-- RESET: every element to its reset value, then the transition to P; the `tick` pin is not examined (R220). The
parameters and the pin samples still to come are no elements of the block. -/
def execReset (_tick : Bool) (s : State) : Result := .next (goTo .P (resetElements (beginOp s)))

/-- NOTICK: no element changes, every output field is idle (R161). -/
def execNotick (s : State) : Result := .next (beginOp s)

end Sys2Proof.Machine
end

