-- ==== Sys2Proof/Machine/Finalize.lean ====
section
/-! DEFINITION. The operations of state F, Finalize (R156 to R158). The EdgeMask an operation carries is not read. -/

namespace Sys2Proof.Machine

/-- F_IDLE: no edge on channel 2 or 3 in F (R156). -/
def execFIdle (_e : Mask) (s : State) : Result := .next (beginOp s)

/-- F_CLRALL: edge on channel 2 in F; clear the buffer, go to P (R157). -/
def execFClrall (_e : Mask) (s : State) : Result := .next (goTo .P (clearAll (beginOp s)))

/-- F_PACK: edge on channel 3 in F; present the bytes and stay, or report the error and return to P with buffer
and cursor kept (R158, R192, R193). -/
def execFPack (_e : Mask) (s : State) : Result :=
  match pack (beginOp s) with
  | .error r => .fault r
  | .ok .misaligned => .next (recoverToPrimary .misaligned (beginOp s))
  | .ok .invariantViolated => .next (recoverToPrimary .invariantViolated (beginOp s))
  | .ok (.bytes bs) => .next (emitResult bs (beginOp s))

end Sys2Proof.Machine
end

