-- ==== Sys2Proof/Machine/Hold.lean ====
section
/-! DEFINITION. HOLD_FIRE, one definition per row of the opcode map: the hold gesture fired (R143, R197). The
EdgeMask of the tick is discarded. -/

namespace Sys2Proof.Machine

/-- HOLD_FIRE from P: save P, enter SB (R143). -/
def execHoldFireP (_e : Mask) (s : State) : Result := .next (enterStandby .P (beginOp s))

/-- HOLD_FIRE from S: save S, enter SB (R143). -/
def execHoldFireS (_e : Mask) (s : State) : Result := .next (enterStandby .S (beginOp s))

/-- HOLD_FIRE from F: save F, enter SB (R143). -/
def execHoldFireF (_e : Mask) (s : State) : Result := .next (enterStandby .F (beginOp s))

end Sys2Proof.Machine
end

