-- ==== Sys2Proof/Machine/Primary.lean ====
section
/-! DEFINITION. The operations of state P, AccumulatingPrimary (R144 to R148). The EdgeMask an operation carries is
not read: its other edges are dropped (R85, R163). -/

namespace Sys2Proof.Machine

/-- A push in P: append the bit and flash its indicator; silent when the buffer is full (R145, R146). -/
def pushInPrimary (bit : Bool) (s : State) : Result :=
  match push bit (beginOp s) with
  | .error r => .fault r
  | .ok (true, s') => .next (emitFlash bit s')
  | .ok (false, s') => .next s'

/-- P_IDLE: no edge in P (R144). -/
def execPIdle (s : State) : Result := .next (beginOp s)

/-- P_PUSH0: edge on channel 0 in P (R145). -/
def execPPush0 (_e : Mask) (s : State) : Result := pushInPrimary false s

/-- P_PUSH1: edge on channel 1 in P (R146). -/
def execPPush1 (_e : Mask) (s : State) : Result := pushInPrimary true s

/-- P_CLRBLK: edge on channel 2 in P (R147). -/
def execPClrblk (_e : Mask) (s : State) : Result := .next (clearCurrentBlock (beginOp s))

/-- P_ADV: edge on channel 3 alone in P; go to S (R148). -/
def execPAdv (s : State) : Result := .next (goTo .S (beginOp s))

end Sys2Proof.Machine
end

