-- ==== Sys2Proof/Machine/Secondary.lean ====
section
/-! DEFINITION. The operations of state S, AccumulatingSecondary (R149, R152 to R155). The EdgeMask an operation
carries is not read: its other edges are dropped (R85, R163). -/

namespace Sys2Proof.Machine

/-- A push in S: append the bit, flash its indicator, return to P with the buffer kept; on a full buffer nothing
happens and the block stays in S (R152, R153). -/
def pushInSecondary (bit : Bool) (s : State) : Result :=
  match push bit (beginOp s) with
  | .error r => .fault r
  | .ok (true, s') => .next (goTo .P (emitFlash bit s'))
  | .ok (false, s') => .next s'

/-- S_IDLE: no edge in S (R149). -/
def execSIdle (s : State) : Result := .next (beginOp s)

/-- S_PUSH0: edge on channel 0 in S (R152). -/
def execSPush0 (_e : Mask) (s : State) : Result := pushInSecondary false s

/-- S_PUSH1: edge on channel 1 in S (R153). -/
def execSPush1 (_e : Mask) (s : State) : Result := pushInSecondary true s

/-- S_CLRALL: edge on channel 2 in S; clear the buffer, go to P (R154). -/
def execSClrall (_e : Mask) (s : State) : Result := .next (goTo .P (clearAll (beginOp s)))

/-- S_ADV: edge on channel 3 alone in S; go to F (R155). -/
def execSAdv (s : State) : Result := .next (goTo .F (beginOp s))

end Sys2Proof.Machine
end

