-- ==== Sys2Proof/Machine/Standby.lean ====
section
/-! DEFINITION. The operations of state SB, Standby: SB_RAMP, and SB_WAKE with one definition per row of the opcode
map (R159, R160). Which channel woke the block does not matter. -/

namespace Sys2Proof.Machine

/-- SB_RAMP: no edge in SB; one ramp step, and the new value on all outputs (R160). -/
def execSbRamp (s : State) : Result :=
  let s' := rampStep (beginOp s)
  .next (emitInd (.duty s'.dutyCycle) s')

/-- SB_WAKE, lowest edge on channel 0 (R159). -/
def execSbWake0 (_e : Mask) (s : State) : Result := .next (leaveStandby (beginOp s))

/-- SB_WAKE, lowest edge on channel 1 (R159). -/
def execSbWake1 (_e : Mask) (s : State) : Result := .next (leaveStandby (beginOp s))

/-- SB_WAKE, lowest edge on channel 2 (R159). -/
def execSbWake2 (_e : Mask) (s : State) : Result := .next (leaveStandby (beginOp s))

/-- SB_WAKE, edge on channel 3 alone (R159). -/
def execSbWake3 (s : State) : Result := .next (leaveStandby (beginOp s))

end Sys2Proof.Machine
end

