-- ==== Sys2Proof/Machine/Dispatch.lean ====
section
/-! DEFINITION. From an operation to its meaning. -/

namespace Sys2Proof.Machine

def exec (i : Instr) (s : State) : Host.Outcome State Fault Refusal :=
  match i with
  | .holdFireP e => Sys2Proof.Machine.execHoldFireP e s
  | .holdFireS e => Sys2Proof.Machine.execHoldFireS e s
  | .holdFireF e => Sys2Proof.Machine.execHoldFireF e s
  | .pIdle => Sys2Proof.Machine.execPIdle s
  | .pPush0 e => Sys2Proof.Machine.execPPush0 e s
  | .pPush1 e => Sys2Proof.Machine.execPPush1 e s
  | .pClrblk e => Sys2Proof.Machine.execPClrblk e s
  | .pAdv => Sys2Proof.Machine.execPAdv s
  | .sIdle => Sys2Proof.Machine.execSIdle s
  | .sPush0 e => Sys2Proof.Machine.execSPush0 e s
  | .sPush1 e => Sys2Proof.Machine.execSPush1 e s
  | .sClrall e => Sys2Proof.Machine.execSClrall e s
  | .sAdv => Sys2Proof.Machine.execSAdv s
  | .fIdle e => Sys2Proof.Machine.execFIdle e s
  | .fClrall e => Sys2Proof.Machine.execFClrall e s
  | .fPack e => Sys2Proof.Machine.execFPack e s
  | .sbRamp => Sys2Proof.Machine.execSbRamp s
  | .sbWake0 e => Sys2Proof.Machine.execSbWake0 e s
  | .sbWake1 e => Sys2Proof.Machine.execSbWake1 e s
  | .sbWake2 e => Sys2Proof.Machine.execSbWake2 e s
  | .sbWake3 => Sys2Proof.Machine.execSbWake3 s
  | .reset t => Sys2Proof.Machine.execReset t s
  | .notick => Sys2Proof.Machine.execNotick s

end Sys2Proof.Machine
end

