-- ==== Sys2Proof/Machine/Fetch.lean ====
section
/-! DEFINITION. How a clock edge forms the word that selects its operation (R71, R82, R83, R140), and how a given
word is made the one the next edge forms. -/

namespace Sys2Proof.Machine

/-- The pins of the next clock edge, and the state without them. With no sample listed the pins are idle
(log entry 1). -/
def takePins (s : State) : Pins × State :=
  match s.pending with
  | [] => (Pins.idle, s)
  | p :: rest => (p, { s with pending := rest })

/-- The sampling half of a tick: HOLD_EVAL unless in SB, then EDGE, on a valid sample; neither on a failed read
(R73, R112, R140). Answers the selector word and the state with `hold` and `prev_mask` updated. -/
def sample (p : Pins) (s : State) : Sel × State :=
  if p.sampleOk then
    let h := if s.state = .SB then (false, s) else holdEval p.btn (sampleNow s.params p) s
    let e := edge p.btn h.2
    (mkSel s.state h.1 e.1, e.2)
  else (mkSel s.state false 0b0000#4, s)

/-- The word a clock edge forms: the control word, or, where that selects a tick, the selector word (R71, R83). -/
def fetch (p : Pins) (s : State) : FetchWord × State :=
  if mkCtrl p = 0b01#2 then (.tick (sample p s).1, (sample p s).2) else (.ctrl (mkCtrl p), s)

/-- The control state of a state code (R80). -/
def stateOfCode (c : BitVec 2) : FsmState :=
  if c = 0b00#2 then .P else if c = 0b01#2 then .S else if c = 0b10#2 then .F else .SB

/-- The state whose next edge forms the selector word `w`: `state` is its `st` field, and the pins, `prev_mask` and
`hold` are such that EDGE gives its `e` field and HOLD_EVAL its `f` field. A word with st = 11 and f = 1 is
never formed and stands for the word with f = 0 (R86 (a)). -/
def placeSel (w : Sel) (s : State) : State :=
  let st := stateOfCode (Sel.stateField w)
  if Sel.fireField w && st != .SB then
    { s with
      state := st
      prevMask := ~~~Sel.edgeField w
      hold := some 0
      pending :=
        { rst := false, tick := true, btn := 0b1111#4, sampleOk := true, nowMs := Config.holdMs } :: s.pending }
  else
    { s with
      state := st
      prevMask := 0b0000#4
      hold := none
      pending :=
        { rst := false, tick := true, btn := Sel.edgeField w, sampleOk := true, nowMs := 0 } :: s.pending }

/-- The state whose next edge carries the control word `w`. -/
def placeCtrl (w : Ctrl) (s : State) : State :=
  { s with
    pending :=
      { rst := w.getLsbD 1, tick := w.getLsbD 0, btn := 0b0000#4, sampleOk := false, nowMs := 0 } :: s.pending }

/-- Make a word the one the next edge forms. -/
def placeWord (fw : FetchWord) (s : State) : State :=
  match fw with
  | .ctrl w => placeCtrl w s
  | .tick w => placeSel w s

end Sys2Proof.Machine
end

