-- ==== Sys2Proof/Machine/Step.lean ====
section
/-! DEFINITION. One step: one rising edge of `clk` (R71, R140). -/

namespace Sys2Proof.Machine

/-- One rising edge of `clk`: take the edge's pins, form the word, run the one operation it selects (R71, R140). -/
def step (s : State) : Host.Outcome State Fault Refusal :=
  let t := takePins s
  let f := fetch t.1 t.2
  match decode f.1 with
  | .ok i => exec i f.2
  | .error e => .refused (.undecoded e)

/-- `s` with a word of the opcode table as the one its next edge forms (log entry 4). -/
def State.withFetchWord (s : State) (nbits w : Nat) : State :=
  match tableWord nbits w with
  | some fw => placeWord fw s
  | none => s

end Sys2Proof.Machine
end

