-- ==== Sys2Proof/Machine/Ports.lean ====
section
/-! DEFINITION. The output pins, read off the state after a clock edge (R70, R75 to R79), and the commands the record
stands for at the actuator (R89). Nothing here is read by an operation. -/

namespace Sys2Proof.Machine

/-- `ind_cmd`, the code of an indicator command (R76). -/
def IndCmd.code : IndCmd → BitVec 3
  | .none => 0b000#3
  | .slow => 0b001#3
  | .fast => 0b010#3
  | .fastest => 0b011#3
  | .allOn => 0b100#3
  | .duty _ => 0b101#3

/-- `err`, the code of an error report (R79). -/
def ErrKind.code : ErrKind → BitVec 2
  | .none => 0b00#2
  | .misaligned => 0b01#2
  | .invariantViolated => 0b10#2

/-- `state_o` (R70, R75, R80). -/
def portStateO (s : State) : BitVec 2 := s.state.code

/-- `count_o`, CNT_W bits (R70, R75). -/
def portCountO (s : State) : BitVec s.params.cntW := BitVec.ofNat _ s.inputCount

/-- `ind_cmd` (R70, R76). -/
def portIndCmd (s : State) : BitVec 3 := s.out.ind.code

/-- `duty_o`: the duty value under IND_DUTY, otherwise not meaningful (R75, R76). -/
def portDutyO (s : State) : Duty :=
  match s.out.ind with
  | .duty d => d
  | _ => Config.freeDutyO s

/-- `flash` (R70, R77). -/
def portFlash (s : State) : BitVec 2 := s.out.flash

/-- `err` (R70, R79). -/
def portErr (s : State) : BitVec 2 := s.out.err.code

/-- `result_valid` (R70, R78). -/
def portResultValid (s : State) : Bool := s.out.result.isSome

/-- `result_len`, LEN_W bits; not meaningful without a result (R75, R78). -/
def portResultLen (s : State) : BitVec s.params.lenW :=
  match s.out.result with
  | some bs => BitVec.ofNat _ bs.length
  | none => Config.freeResultPort false _ s

/-- The number whose bits `8j+7 : 8j` are byte `j` of the list and whose other bits are zero (R78). -/
def bytesValue : List Byte → Nat
  | [] => 0
  | b :: bs => b.toNat + 2 ^ Config.block * bytesValue bs

/-- `result_bytes`, `8 * (CAPACITY div 8)` bits; not meaningful without a result (R75, R78). -/
def portResultBytes (s : State) : BitVec (Config.block * (s.params.capacity / Config.block)) :=
  match s.out.result with
  | some bs => BitVec.ofNat _ (bytesValue bs)
  | none => Config.freeResultPort true _ s

/-! ### The record at the reference actuator (R89) -/

/-- A command to the actuator (R76, R89). -/
inductive ActuatorCall where
  /-- `set(c, on|off)`. -/
  | set (channel : Nat) (on : Bool)
  /-- `blink(c, pattern_id)`. -/
  | blink (channel patternId : Nat)
  /-- `set_duty_cycle(c, d)`. -/
  | setDutyCycle (channel : Nat) (d : Duty)
  /-- A short on-then-off of indicator `k`: `set` twice or `toggle` twice, for a time that is not given. -/
  | flash (k : Nat)
  deriving DecidableEq, Repr

/-- One `blink` call whose channel and pattern id the source does not give (R89; log entry 10). -/
def blinkCall (c : IndCmd) : ActuatorCall :=
  .blink (Config.blinkChannel c.code) (Config.blinkPatternId c.code)

/-- The calls of an indicator command with `nOut` output channels (R89). -/
def indCalls (nOut : Nat) : IndCmd → List ActuatorCall
  | .none => []
  | .slow => [blinkCall .slow]
  | .fast => [blinkCall .fast]
  | .fastest => [blinkCall .fastest]
  | .allOn => (List.range nOut).map fun c => .set c true
  | .duty d => (List.range nOut).map fun c => .setDutyCycle c d

/-- The flash requests of a record. -/
def flashCalls (f : BitVec 2) : List ActuatorCall :=
  ((List.range 2).filter fun k => f.getLsbD k).map .flash

/-- What a record asks of the actuator: the flash first, the pattern command second (R77, R89). -/
def actuatorCalls (nOut : Nat) (o : Output) : List ActuatorCall :=
  flashCalls o.flash ++ indCalls nOut o.ind

end Sys2Proof.Machine
end

