-- ==== Sys2Proof/Machine/Stimulus.lean ====
section
/-! DEFINITION. The stimulus notation as pin samples (R92) and the expansions of its pseudo-instructions (R93). -/

namespace Sys2Proof.Machine

/-- The line `RESET`: one clock edge with `rst = 1` (R92). -/
def resetLine : Pins := { Pins.idle with rst := true }

/-- The line `T btn= now=`: one tick with a valid sample (R92). -/
def tickLine (btn : Mask) (now : Nat) : Pins :=
  { rst := false, tick := true, btn := btn, sampleOk := true, nowMs := now }

/-- The line `TX`: one tick with `sample_ok = 0`; its mask and time are not read (R73, R92). -/
def failedLine : Pins := { Pins.idle with tick := true }

/-- The mask of one channel alone. -/
def channelMask (k : Nat) : Mask := 1#4 <<< k

/-- `HOLD m, n`: mask `m` for `n` ticks, the time advancing by the poll period before each (R93). -/
def holdLines (period : Nat) (m : Mask) : Nat → Nat → List Pins
  | _, 0 => []
  | now, n + 1 => tickLine m (now + period) :: holdLines period m (now + period) n

/-- `IDLE n`: `n` ticks with nothing pressed (R93). -/
def idleLines (period now n : Nat) : List Pins := holdLines period 0b0000#4 now n

/-- `PRESS k` or `BTNk`: press and release channel `k` alone (R93). -/
def pressLines (period now k : Nat) : List Pins :=
  [tickLine (channelMask k) (now + period), tickLine 0b0000#4 (now + 2 * period)]

end Sys2Proof.Machine
end

