-- ==== Sys2Proof/Safety.lean ====
section
/-! DEFINITION. The terms the statements use: the invariants of R33, the premises a host keeps (R226), and the
shapes of pin samples that rules speak of. -/

namespace Sys2Proof.Machine

/-- INV1 to INV3: the cursor is within the buffer, entries below it hold a bit, entries from it on are unset (R33). -/
structure CursorInv (s : State) : Prop where
  /-- INV1. -/
  count_le : s.inputCount ≤ s.params.capacity
  /-- INV2. -/
  set_below : ∀ i, i < s.inputCount → s.buf.read i ≠ .unset
  /-- INV3. -/
  unset_above : ∀ i, s.inputCount ≤ i → s.buf.read i = .unset

/-- INV4 to INV9 (R33), with the range of a stored instant (R20, R22). INV8 names the mask of the latest tick on which
HOLD_EVAL ran; outside SB that is `prev_mask`, since EDGE and HOLD_EVAL run on the same ticks there (R140), and in
SB `hold` is unset (INV7). -/
structure ModeInv (s : State) : Prop where
  /-- INV4. -/
  last_ne_standby : s.lastActiveState ≠ .SB
  /-- INV5, the bound. -/
  duty_le : s.dutyCycle.toNat ≤ 100
  /-- INV5, the multiples. -/
  duty_mod : s.dutyCycle.toNat % 5 = 0
  /-- INV6. -/
  duty_outside : s.state ≠ .SB → s.dutyCycle = 0#7
  /-- INV7. -/
  hold_standby : s.state = .SB → s.hold = none
  /-- INV8. -/
  hold_chord : s.hold ≠ none → chord s.params s.prevMask = true
  /-- INV9, the lower bound. -/
  ramp_bottom : s.state = .SB → s.dutyCycle = 0#7 → s.rampUp = true
  /-- INV9, the upper bound. -/
  ramp_top : s.state = .SB → s.dutyCycle.toNat = 100 → s.rampUp = false
  /-- A stored instant has TIME_W bits. -/
  hold_range : ∀ t, s.hold = some t → t < 2 ^ s.params.timeW

/-- Every invariant of R33, with the canonical form of the buffer. -/
structure Inv (s : State) : Prop where
  cursor : CursorInv s
  mode : ModeInv s
  memory : s.buf.wf s.params.capacity

/-- A tick whose sample is valid (R70, R73). -/
abbrev Pins.validTick (p : Pins) : Prop := p.rst = false ∧ p.tick = true ∧ p.sampleOk = true

/-- A tick whose read failed (R73). -/
abbrev Pins.failedTick (p : Pins) : Prop := p.rst = false ∧ p.tick = true ∧ p.sampleOk = false

/-- The host's duty on the clock: `now_ms` non-decreasing from tick to tick (R226). -/
abbrev hostClockMonotone (ps : List Pins) : Prop := ps.Pairwise fun a b => a.nowMs ≤ b.nowMs

/-- A tick, valid or failed: `rst = 0` and `tick = 1` (R71). -/
abbrev Pins.anyTick (p : Pins) : Prop := p.rst = false ∧ p.tick = true

/-- Ticks none of which gives an edge, the latest valid mask before them being `m`: no valid sample has a channel
that the valid sample before it lacks (R100, R101). -/
def quietFrom : Mask → List Pins → Prop
  | _, [] => True
  | m, p :: ps =>
    p.anyTick ∧ (p.sampleOk = true → p.btn &&& ~~~m = 0b0000#4) ∧
      quietFrom (if p.sampleOk then p.btn else m) ps

/-- The pins the next edge brings, idle when none is listed. -/
def nextPins (s : State) : Pins := (takePins s).1

/-- `k` clock edges in a row. -/
def run (k : Nat) (s : State) : Result := Sys2Proof.core.run k s

/-- The pattern command of a state's entry action (R142). -/
def entryPattern : FsmState → IndCmd
  | .P => .slow
  | .S => .fast
  | .F => .fastest
  | .SB => .allOn

/-! ### Frames: what an operation leaves as it was -/

/-- What HOLD_EVAL and EDGE own (R36). -/
abbrev sameSampling (s t : State) : Prop := t.prevMask = s.prevMask ∧ t.hold = s.hold

/-- The cursor, and every entry of the buffer as it reads. -/
abbrev sameBuffer (s t : State) : Prop := t.inputCount = s.inputCount ∧ ∀ a, t.buf.read a = s.buf.read a

/-- The control state and the saved state. -/
abbrev sameControl (s t : State) : Prop := t.state = s.state ∧ t.lastActiveState = s.lastActiveState

/-- The ramp value and its direction. -/
abbrev sameRamp (s t : State) : Prop := t.dutyCycle = s.dutyCycle ∧ t.rampUp = s.rampUp

/-- The parameters and the pin samples to come. -/
abbrev sameModel (s t : State) : Prop := t.params = s.params ∧ t.pending = s.pending

/-! ### Shapes the run statements speak of -/

/-- The triangle of R181: the duty after `n` quiet standby ticks from standby entry. -/
def dutyAfter (n : Nat) : Nat :=
  if n % 40 ≤ 20 then 5 * (n % 40) else 5 * (40 - n % 40)

/-- PUSH the bits of a list in turn, ignoring the returned flag (R120). -/
def pushAll : List Bool → State → Except Fault State
  | [], s => .ok s
  | b :: bs, s =>
    match push b s with
    | .ok r => pushAll bs r.2
    | .error e => .error e

end Sys2Proof.Machine
end

