-- ==== Sys2Proof/Certificates/Slice0/Obligations.lean ====
section
/-! DEFINITION. The statements for the provers. Each one is a `def Obligations.<Name> : Prop`; OBLIGATIONS.json says
which rule it formalises. -/

open Sys2Proof Sys2Proof.Machine

/-! ### Encoding -/

/-- Decoding the word of a well-formed operation gives that operation back, whatever EdgeMask it carries. -/
def Obligations.DecodeEncodeRoundTrip : Prop :=
  ∀ i : Instr, i.wellFormed = true → decode (encode i) = .ok i

/-- An operation the decoder gives is well formed, and its word is the word decoded, a word of R86 (a) counting as the
same word with `f = 0`. -/
def Obligations.DecodedOperationEncodesBack : Prop :=
  ∀ (w : FetchWord) (i : Instr), decode w = .ok i →
    i.wellFormed = true ∧
      encode i = (match w with | .ctrl c => .ctrl c | .tick sel => .tick (normalizeSel sel))

/-- The rows of format TICK are disjoint and cover every selector word but those of R86 (a), and those words decode
as the same word with `f = 0`. -/
def Obligations.SelectorRowsDisjointAndCovering : Prop :=
  (∀ w : Sel, w &&& 0x70#7 ≠ 0x70#7 → (selRows.filter (selRowMatches w)).length = 1) ∧
  (∀ w : Sel, w &&& 0x70#7 = 0x70#7 →
    (selRows.filter (selRowMatches w)).length = 0 ∧ decode (.tick w) = decode (.tick (w &&& 0x6F#7)))

/-- The priority inside the map: a fired gesture beats every edge; in P, S and SB the lowest-numbered edge wins; in F
channel 2 beats channel 3 and channels 0 and 1 are not looked at. -/
def Obligations.PriorityChoosesLowestActiveChannel : Prop :=
  (∀ e : Mask,
    decode (.tick (mkSel .P true e)) = .ok (.holdFireP e) ∧
    decode (.tick (mkSel .S true e)) = .ok (.holdFireS e) ∧
    decode (.tick (mkSel .F true e)) = .ok (.holdFireF e)) ∧
  (∀ (e : Mask) (k : Nat), k < 4 → e.getLsbD k = true → (∀ j, j < k → e.getLsbD j = false) →
    decode (.tick (mkSel .P false e)) = .ok ([.pPush0 e, .pPush1 e, .pClrblk e, .pAdv].getD k .notick) ∧
    decode (.tick (mkSel .S false e)) = .ok ([.sPush0 e, .sPush1 e, .sClrall e, .sAdv].getD k .notick) ∧
    decode (.tick (mkSel .SB false e)) =
      .ok ([.sbWake0 e, .sbWake1 e, .sbWake2 e, .sbWake3].getD k .notick)) ∧
  ∀ e : Mask,
    (e.getLsbD 2 = true → decode (.tick (mkSel .F false e)) = .ok (.fClrall e)) ∧
    (e.getLsbD 2 = false → e.getLsbD 3 = true → decode (.tick (mkSel .F false e)) = .ok (.fPack e)) ∧
    (e.getLsbD 2 = false → e.getLsbD 3 = false → decode (.tick (mkSel .F false e)) = .ok (.fIdle e))

/-- Words written out from the opcode map and the control format decode to the operations they stand for. -/
def Obligations.OpcodeMapWordsDecode : Prop :=
  decode (.tick 0b0010101#7) = .ok (.holdFireP 0b0101#4) ∧
  decode (.tick 0b0001011#7) = .ok (.pPush0 0b1011#4) ∧
  decode (.tick 0b0100110#7) = .ok (.sPush1 0b0110#4) ∧
  decode (.tick 0b1001010#7) = .ok (.fPack 0b1010#4) ∧
  decode (.tick 0b1101100#7) = .ok (.sbWake2 0b1100#4) ∧
  decode (.ctrl 0b11#2) = .ok (.reset true) ∧
  decode (.ctrl 0b00#2) = .ok .notick

/-- The control word `1-` is RESET, `00` is NOTICK, and `01` selects a tick operation by the selector word. -/
def Obligations.ControlWordSelects : Prop :=
  ∀ (p : Pins) (s : State),
    (p.rst = true → fetch p s = (.ctrl (mkCtrl p), s) ∧ decode (.ctrl (mkCtrl p)) = .ok (.reset p.tick)) ∧
    (p.rst = false → p.tick = true → (fetch p s).1 = .tick (sample p s).1) ∧
    (p.rst = false → p.tick = false → fetch p s = (.ctrl (mkCtrl p), s) ∧ decode (.ctrl (mkCtrl p)) = .ok .notick)

/-! ### The step -/

/-- A step runs the operation that the word of its clock edge decodes to, on the state that taking the pins, HOLD_EVAL
and EDGE leave. -/
def Obligations.StepRunsDecodedOperation : Prop :=
  ∀ (s : State) (i : Instr),
    decode (fetch (takePins s).1 (takePins s).2).1 = .ok i →
      step s = exec i (fetch (takePins s).1 (takePins s).2).2

/-- The tick step: on a valid sample HOLD_EVAL runs first (not in SB), EDGE next, and the one operation of the selector
word runs on the result; on a failed sample the word is that of no fire and no edge, and neither runs. -/
def Obligations.TickFormsSelectorAndRunsIt : Prop :=
  ∀ (s : State) (p : Pins) (rest : List Pins) (i : Instr), s.pending = p :: rest →
    (p.validTick → s.state ≠ .SB →
      decode (.tick (mkSel s.state (holdEval p.btn (sampleNow s.params p) s).1 (edge p.btn s).1)) = .ok i →
      step s = exec i
        { s with
          pending := rest
          hold := (holdEval p.btn (sampleNow s.params p) s).2.hold
          prevMask := p.btn }) ∧
    (p.validTick → s.state = .SB → decode (.tick (mkSel .SB false (edge p.btn s).1)) = .ok i →
      step s = exec i { s with pending := rest, prevMask := p.btn }) ∧
    (p.failedTick → decode (.tick (mkSel s.state false 0b0000#4)) = .ok i →
      step s = exec i { s with pending := rest })

/-- A clock edge for which no pins are listed is an edge without a tick. The model's choice (log entry 1). -/
def Obligations.NoListedPinsIsNotick : Prop :=
  ∀ s : State, s.pending = [] → step s = .next { s with out := Output.idle }

/-- No step is refused: every word the block forms names an operation, and every operation has its meaning. -/
def Obligations.StepNeverRefuses : Prop :=
  ∀ (s : State) (r : Refusal), step s ≠ .refused r

/-- A step always completes while the cursor is within the buffer: no condition is fatal. -/
def Obligations.StepCompletesWithinCapacity : Prop :=
  ∀ s : State, s.inputCount ≤ s.params.capacity → ∃ t, step s = .next t

/-- A step takes one pin sample and never writes the parameters. -/
def Obligations.StepKeepsParameters : Prop :=
  ∀ s t : State, step s = .next t → t.params = s.params ∧ t.pending = s.pending.tail

/-! ### Invariants (R33) -/

/-- Every invariant of R33, with the canonical form of the buffer, is kept by every step from every state that
meets them. INV8 is stated with `prev_mask` for the mask of the latest tick on which HOLD_EVAL ran: the model's
reading (log entry 14). -/
def Obligations.StepKeepsInvariants : Prop :=
  ∀ s t : State, Inv s → step s = .next t → Inv t

/-- The reset state meets every invariant, whatever the parameters. -/
def Obligations.ResetMeetsInvariants : Prop :=
  ∀ p : Params, Inv (State.resetWith p)

/-- The operations of the accumulator keep INV1 to INV3; CLEAR_ALL and the writes of RESET establish them outright. -/
def Obligations.AccumulatorKeepsCursorInvariants : Prop :=
  ∀ s : State,
    (CursorInv s → ∀ (b ok : Bool) (t : State), push b s = .ok (ok, t) → CursorInv t) ∧
    (CursorInv s → CursorInv (clearCurrentBlock s)) ∧
    CursorInv (clearAll s) ∧ CursorInv (resetElements s)

/-- Every step keeps the canonical form of the buffer, in every state that has it, reachable or not. The form is the
model's (log entry 7). -/
def Obligations.StepKeepsMemoryForm : Prop :=
  ∀ s t : State, s.buf.wf s.params.capacity → step s = .next t → t.buf.wf t.params.capacity

/-- From a state that meets the invariants no number of clock edges stops the block, and they hold at the end. -/
def Obligations.RunNeverStops : Prop :=
  ∀ (n : Nat) (s : State), Inv s → ∃ t, run n s = .next t ∧ Inv t

/-! ### Reset -/

/-- RESET: both control words select it; it writes every element, whatever the state was; on a clock edge `rst`
decides whatever the other pins are; its record is IND_SLOW and else idle. -/
def Obligations.ResetWritesEveryElement : Prop :=
  decode (.ctrl 0b10#2) = .ok (.reset false) ∧ decode (.ctrl 0b11#2) = .ok (.reset true) ∧
  (∀ (s : State) (tk : Bool), ∃ t, exec (.reset tk) s = .next t ∧
    t.prevMask = 0b0000#4 ∧ t.hold = none ∧ (∀ a, t.buf.read a = .unset) ∧ t.inputCount = 0 ∧
    t.lastActiveState = .P ∧ t.dutyCycle = 0#7 ∧ t.rampUp = true ∧ t.state = .P ∧
    t.out = { ind := .slow, flash := 0b00#2, result := none, err := .none } ∧ sameModel s t) ∧
  (∀ (s : State) (p : Pins) (rest : List Pins), s.pending = p :: rest → p.rst = true →
    step s = exec (.reset p.tick) { s with pending := rest })

/-- After a RESET edge the state is exactly the reset state of its parameters, and the reset state is that of R34. -/
def Obligations.ResetStateIsExactlyR34 : Prop :=
  (∀ (s : State) (p : Pins) (rest : List Pins), s.pending = p :: rest → p.rst = true →
    step s = .next { State.resetWith s.params with pending := rest }) ∧
  ∀ pr : Params,
    (State.resetWith pr).prevMask = 0b0000#4 ∧ (State.resetWith pr).hold = none ∧
    (∀ i, (State.resetWith pr).buf.read i = .unset) ∧ (State.resetWith pr).inputCount = 0 ∧
    (State.resetWith pr).state = .P ∧ (State.resetWith pr).lastActiveState = .P ∧
    (State.resetWith pr).dutyCycle = 0#7 ∧ (State.resetWith pr).rampUp = true

/-- NOTICK: no element changes, every field of the record is idle, and no other pin is looked at. -/
def Obligations.NotickChangesNothing : Prop :=
  decode (.ctrl 0b00#2) = .ok .notick ∧
  (∀ s : State, exec .notick s = .next { s with out := Output.idle }) ∧
  (∀ (s : State) (p : Pins) (rest : List Pins), s.pending = p :: rest → p.rst = false → p.tick = false →
    step s = .next { s with pending := rest, out := Output.idle })

/-! ### Edge detector -/

/-- EDGE reports a channel exactly when it is pressed now and was not before, each channel by itself, and stores the
mask unconditionally; nothing else changes. -/
def Obligations.EdgeReportsRisingChannels : Prop :=
  ∀ (m : Mask) (s : State),
    (∀ k, k < 4 → (edge m s).1.getLsbD k = (m.getLsbD k && !s.prevMask.getLsbD k)) ∧
    (edge m s).2 = { s with prevMask := m }

/-- Memory of exactly one tick: the EdgeMask of a valid tick is its mask against the mask of the valid tick before it,
whatever operation that tick ran; against `0000` after RESET; and a failed tick between leaves the latest valid
mask in place. -/
def Obligations.EdgeHasMemoryOfOneTick : Prop :=
  ∀ (s t : State) (p q : Pins) (rest : List Pins), s.pending = p :: q :: rest → step s = .next t →
    q.validTick →
    (p.validTick → ∃ f, (fetch q t).1 = .tick (mkSel t.state f (q.btn &&& ~~~p.btn))) ∧
    (p.rst = true → ∃ f, (fetch q t).1 = .tick (mkSel t.state f q.btn)) ∧
    (p.failedTick → ∃ f, (fetch q t).1 = .tick (mkSel t.state f (q.btn &&& ~~~s.prevMask)))

/-! ### Hold gesture -/

/-- HOLD_EVAL, its four cases: chord absent; onset; still held below the threshold; fire at 3000 ms or more. It
changes `hold` only. -/
def Obligations.HoldEvalCases : Prop :=
  ∀ (m : Mask) (now : Nat) (s : State),
    (chord s.params m = false → holdEval m now s = (false, { s with hold := none })) ∧
    (chord s.params m = true → s.hold = none → holdEval m now s = (false, { s with hold := some now })) ∧
    (∀ t0, chord s.params m = true → s.hold = some t0 → subMod s.params.timeW now t0 < 3000 →
      holdEval m now s = (false, s)) ∧
    (∀ t0, chord s.params m = true → s.hold = some t0 → 3000 ≤ subMod s.params.timeW now t0 →
      holdEval m now s = (true, { s with hold := none }))

/-- The chord is present exactly when every designated channel is pressed, whatever the other channels are. -/
def Obligations.ChordIgnoresOtherChannels : Prop :=
  ∀ (pr : Params) (m : Mask),
    chord pr m = true ↔ ∀ k, k < 4 → pr.chordMask.getLsbD k = true → m.getLsbD k = true

/-- Elapsed time is the difference modulo `2 ^ TIME_W`; for a clock that only wraps it is the true elapsed time as long
as that is below `2 ^ TIME_W`. -/
def Obligations.ElapsedTimeIsModular : Prop :=
  ∀ w : Nat,
    (∀ now t, now < 2 ^ w → t < 2 ^ w → subMod w now t = if t ≤ now then now - t else 2 ^ w - (t - now)) ∧
    (∀ a b, a ≤ b → b - a < 2 ^ w → subMod w (b % 2 ^ w) (a % 2 ^ w) = b - a)

/-- The timer is left alone on every edge but a valid tick outside SB and a RESET. -/
def Obligations.HoldTimerRunsOnlyOutsideStandby : Prop :=
  ∀ s t : State, step s = .next t → (nextPins s).rst = false →
    ((nextPins s).tick = false ∨ (nextPins s).sampleOk = false ∨ s.state = .SB) → t.hold = s.hold

/-- A due gesture enters Standby on its tick whatever edges the tick has: it saves the state, starts the ramp at 0 going
up, clears the timer, stores the mask, and touches neither buffer nor cursor. -/
def Obligations.DueGestureEntersStandby : Prop :=
  ∀ (s : State) (p : Pins) (rest : List Pins) (t0 : Nat),
    s.pending = p :: rest → p.validTick → s.state ≠ .SB → chord s.params p.btn = true → s.hold = some t0 →
    3000 ≤ subMod s.params.timeW (p.nowMs % 2 ^ s.params.timeW) t0 →
    step s = .next
      { s with
        pending := rest
        prevMask := p.btn
        hold := none
        lastActiveState := s.state
        state := .SB
        dutyCycle := 0#7
        rampUp := true
        out := { ind := .allOn, flash := 0b00#2, result := none, err := .none } }

/-- Standby is entered only by a due gesture on a valid tick, and then the state that was left is saved. -/
def Obligations.StandbyEnteredOnlyByDueGesture : Prop :=
  ∀ s t : State, s.state ≠ .SB → step s = .next t → t.state = .SB →
    (nextPins s).validTick ∧ chord s.params (nextPins s).btn = true ∧
    (∃ t0, s.hold = some t0 ∧
      3000 ≤ subMod s.params.timeW ((nextPins s).nowMs % 2 ^ s.params.timeW) t0) ∧
    t.lastActiveState = s.state ∧ t.hold = none ∧ sameBuffer s t

/-- The control state changes, RESET aside, only on a valid tick with an edge or a fired gesture. -/
def Obligations.StateChangesOnlyOnEdgeOrGesture : Prop :=
  ∀ s t : State, step s = .next t → (nextPins s).rst = false → t.state ≠ s.state →
    (nextPins s).validTick ∧
      ((nextPins s).btn &&& ~~~s.prevMask ≠ 0b0000#4 ∨
        (s.state ≠ .SB ∧ holdFires (nextPins s).btn (sampleNow s.params (nextPins s)) s = true))

/-- A chord held still: the gesture fires on the first valid tick at or past 3000 ms after the onset and at no other,
so the block is in Standby after a run exactly when some valid tick of it was due. Failed reads neither break nor
pause it. The premises are the host's: one mask throughout, a clock that does not go back and does not wrap. -/
def Obligations.HeldChordFiresExactlyAtThreshold : Prop :=
  ∀ (s : State) (p0 : Pins) (ps : List Pins) (m : Mask),
    s.state ≠ .SB → s.hold = none → s.inputCount ≤ s.params.capacity → chord s.params m = true →
    s.pending = p0 :: ps → p0.validTick → p0.btn = m →
    (∀ p ∈ ps, p.anyTick ∧ (p.sampleOk = true → p.btn = m)) →
    hostClockMonotone (p0 :: ps) → (∀ p ∈ p0 :: ps, p.nowMs < 2 ^ s.params.timeW) →
    ∃ t, run (ps.length + 1) s = .next t ∧
      (t.state = .SB ↔ ∃ p ∈ ps, p.sampleOk = true ∧ 3000 ≤ p.nowMs - p0.nowMs)

/-- A chord still held when no timer runs starts a new timer on the next valid tick outside SB, release or no release,
and that tick does not fire. -/
def Obligations.ChordStillHeldRestartsTimer : Prop :=
  ∀ s t : State, s.state ≠ .SB → s.hold = none → (nextPins s).validTick →
    chord s.params (nextPins s).btn = true → step s = .next t →
    t.hold = some ((nextPins s).nowMs % 2 ^ s.params.timeW) ∧ t.state ≠ .SB

/-- HOLD_FIRE, its three rows: save the row's state, enter SB with duty 0 and the ramp going up, emit IND_ALL_ON;
nothing else changes, whatever EdgeMask is discarded. -/
def Obligations.HoldFireSavesStateAndEntersStandby : Prop :=
  (∀ w : Sel, w &&& 0x70#7 = 0x10#7 → decode (.tick w) = .ok (.holdFireP (Sel.edgeField w))) ∧
  (∀ w : Sel, w &&& 0x70#7 = 0x30#7 → decode (.tick w) = .ok (.holdFireS (Sel.edgeField w))) ∧
  (∀ w : Sel, w &&& 0x70#7 = 0x50#7 → decode (.tick w) = .ok (.holdFireF (Sel.edgeField w))) ∧
  ∀ (s : State) (e : Mask) (st : FsmState) (i : Instr),
    (i = .holdFireP e ∧ st = .P) ∨ (i = .holdFireS e ∧ st = .S) ∨ (i = .holdFireF e ∧ st = .F) →
    exec i s = .next
      { s with
        lastActiveState := st
        state := .SB
        dutyCycle := 0#7
        rampUp := true
        out := { ind := .allOn, flash := 0b00#2, result := none, err := .none } }

/-! ### Bit accumulator -/

/-- PUSH: on a full buffer nothing and false; below CAPACITY the bit at the cursor, the cursor one on, and true, every
other entry and element as before. -/
def Obligations.PushAppendsAtCursor : Prop :=
  ∀ (s : State) (b : Bool),
    (s.inputCount = s.params.capacity → push b s = .ok (false, s)) ∧
    (s.inputCount < s.params.capacity → ∃ t, push b s = .ok (true, t) ∧
      t.inputCount = s.inputCount + 1 ∧ t.buf.read s.inputCount = Entry.ofBit b ∧
      (∀ a, a ≠ s.inputCount → t.buf.read a = s.buf.read a) ∧
      sameSampling s t ∧ sameControl s t ∧ sameRamp s t ∧ sameModel s t ∧ t.out = s.out)

/-- CLEAR_BLOCK: the 8 entries from `start` on that exist read unset, every other entry and the cursor as before. -/
def Obligations.ClearBlockClampsToBuffer : Prop :=
  ∀ (start : Nat) (s : State),
    (∀ a, start ≤ a → a < start + 8 → a < s.params.capacity → (clearBlock start s).buf.read a = .unset) ∧
    (∀ a, ¬ (start ≤ a ∧ a < start + 8 ∧ a < s.params.capacity) →
      (clearBlock start s).buf.read a = s.buf.read a) ∧
    clearBlock start s = { s with buf := (clearBlock start s).buf }

/-- CLEAR_CURRENT_BLOCK: nothing on an empty buffer; else the block that holds the most recently written bit is cleared
and the cursor goes to its start, a multiple of 8. -/
def Obligations.ClearCurrentBlockRewindsCursor : Prop :=
  ∀ s : State,
    (s.inputCount = 0 → clearCurrentBlock s = s) ∧
    (1 ≤ s.inputCount →
      clearCurrentBlock s =
        { clearBlock ((s.inputCount - 1) / 8 * 8) s with inputCount := (s.inputCount - 1) / 8 * 8 } ∧
      (s.inputCount - 1) / 8 * 8 % 8 = 0 ∧ (s.inputCount - 1) / 8 * 8 ≤ s.inputCount - 1 ∧
      s.inputCount - 1 < (s.inputCount - 1) / 8 * 8 + 8)

/-- PACK: Misaligned first, then InvariantViolated, else one byte for each 8 entries in rising order, the entry at the
lowest index of a block being bit 7 of its byte. -/
def Obligations.PackBytesMostSignificantFirst : Prop :=
  ∀ s : State,
    (s.inputCount % 8 ≠ 0 → pack s = .ok .misaligned) ∧
    (s.inputCount % 8 = 0 → s.inputCount ≤ s.params.capacity →
      (∃ i, i < s.inputCount ∧ s.buf.read i = .unset) → pack s = .ok .invariantViolated) ∧
    (s.inputCount % 8 = 0 → s.inputCount ≤ s.params.capacity →
      (∀ i, i < s.inputCount → s.buf.read i ≠ .unset) →
      ∃ bs, pack s = .ok (.bytes bs) ∧ bs.length = s.inputCount / 8 ∧
        ∀ j k, j < s.inputCount / 8 → k < 8 →
          (bs.getD j 0#8).getLsbD (7 - k) = (s.buf.read (8 * j + k) == .one))

/-- Bits pushed into an empty buffer and packed come out as bytes that hold them in the order entered. -/
def Obligations.PushThenPackRoundTrip : Prop :=
  ∀ (bits : List Bool) (s : State), s.inputCount = 0 → bits.length % 8 = 0 →
    bits.length ≤ s.params.capacity →
    ∃ t bs, pushAll bits s = .ok t ∧ pack t = .ok (.bytes bs) ∧ bs.length = bits.length / 8 ∧
      ∀ i, i < bits.length → (bs.getD (i / 8) 0#8).getLsbD (7 - i % 8) = bits.getD i false

/-! ### Operations of P, S and F -/

/-- The idle operations change nothing beyond what HOLD_EVAL and EDGE did, and their record is idle. -/
def Obligations.IdleOperationsChangeNothing : Prop :=
  decode (.tick 0x00#7) = .ok .pIdle ∧ decode (.tick 0x20#7) = .ok .sIdle ∧
  (∀ w : Sel, w &&& 0x7C#7 = 0x40#7 → decode (.tick w) = .ok (.fIdle (Sel.edgeField w))) ∧
  ∀ s : State,
    exec .pIdle s = .next { s with out := Output.idle } ∧
    exec .sIdle s = .next { s with out := Output.idle } ∧
    ∀ e, exec (.fIdle e) s = .next { s with out := Output.idle }

/-- P_PUSH0 and P_PUSH1: on a full buffer nothing changes and nothing is emitted; else the bit lands at the cursor, the
cursor moves on, the indicator of the bit flashes, and the state stays. -/
def Obligations.PrimaryPushAppendsAndFlashes : Prop :=
  (∀ w : Sel, w &&& 0x71#7 = 0x01#7 → decode (.tick w) = .ok (.pPush0 (Sel.edgeField w))) ∧
  (∀ w : Sel, w &&& 0x73#7 = 0x02#7 → decode (.tick w) = .ok (.pPush1 (Sel.edgeField w))) ∧
  ∀ (s : State) (e : Mask) (b : Bool) (i : Instr),
    (i = .pPush0 e ∧ b = false) ∨ (i = .pPush1 e ∧ b = true) →
    (s.inputCount = s.params.capacity → exec i s = .next { s with out := Output.idle }) ∧
    (s.inputCount < s.params.capacity → ∃ t, exec i s = .next t ∧
      t.inputCount = s.inputCount + 1 ∧ t.buf.read s.inputCount = Entry.ofBit b ∧
      (∀ a, a ≠ s.inputCount → t.buf.read a = s.buf.read a) ∧
      t.out = { ind := .none, flash := if b then 0b10#2 else 0b01#2, result := none, err := .none } ∧
      sameSampling s t ∧ sameControl s t ∧ sameRamp s t ∧ sameModel s t)

/-- P_CLRBLK: nothing on an empty buffer; else the entries of the block of the last-written bit read unset, the cursor
goes to the block's start, and every other entry and element is as before; the record is idle. -/
def Obligations.PrimaryClearBlockRewinds : Prop :=
  (∀ w : Sel, w &&& 0x77#7 = 0x04#7 → decode (.tick w) = .ok (.pClrblk (Sel.edgeField w))) ∧
  ∀ (s : State) (e : Mask),
    (s.inputCount = 0 → exec (.pClrblk e) s = .next { s with out := Output.idle }) ∧
    (1 ≤ s.inputCount → ∃ t, exec (.pClrblk e) s = .next t ∧
      t.inputCount = (s.inputCount - 1) / 8 * 8 ∧
      (∀ a, currentBlockStart s.inputCount ≤ a → a < currentBlockStart s.inputCount + 8 →
        a < s.params.capacity → t.buf.read a = .unset) ∧
      (∀ a, ¬ (currentBlockStart s.inputCount ≤ a ∧ a < currentBlockStart s.inputCount + 8 ∧
        a < s.params.capacity) → t.buf.read a = s.buf.read a) ∧
      t.out = Output.idle ∧ sameSampling s t ∧ sameControl s t ∧ sameRamp s t ∧ sameModel s t)

/-- P_ADV goes to S with IND_FAST, S_ADV to F with IND_FASTEST; nothing else changes, at any cursor. -/
def Obligations.AdvanceMovesToNextState : Prop :=
  decode (.tick 0x08#7) = .ok .pAdv ∧ decode (.tick 0x28#7) = .ok .sAdv ∧
  ∀ s : State,
    exec .pAdv s = .next
      { s with state := .S, out := { ind := .fast, flash := 0b00#2, result := none, err := .none } } ∧
    exec .sAdv s = .next
      { s with state := .F, out := { ind := .fastest, flash := 0b00#2, result := none, err := .none } }

/-- S_PUSH0 and S_PUSH1: on a full buffer nothing happens and the state stays S; else the bit lands at the cursor, the
indicator flashes, and the block returns to P with IND_SLOW and the rest of the buffer kept. -/
def Obligations.SecondaryPushReturnsToPrimary : Prop :=
  (∀ w : Sel, w &&& 0x71#7 = 0x21#7 → decode (.tick w) = .ok (.sPush0 (Sel.edgeField w))) ∧
  (∀ w : Sel, w &&& 0x73#7 = 0x22#7 → decode (.tick w) = .ok (.sPush1 (Sel.edgeField w))) ∧
  ∀ (s : State) (e : Mask) (b : Bool) (i : Instr),
    (i = .sPush0 e ∧ b = false) ∨ (i = .sPush1 e ∧ b = true) →
    (s.inputCount = s.params.capacity → exec i s = .next { s with out := Output.idle }) ∧
    (s.inputCount < s.params.capacity → ∃ t, exec i s = .next t ∧
      t.inputCount = s.inputCount + 1 ∧ t.buf.read s.inputCount = Entry.ofBit b ∧
      (∀ a, a ≠ s.inputCount → t.buf.read a = s.buf.read a) ∧ t.state = .P ∧
      t.out = { ind := .slow, flash := if b then 0b10#2 else 0b01#2, result := none, err := .none } ∧
      t.lastActiveState = s.lastActiveState ∧ sameSampling s t ∧ sameRamp s t ∧ sameModel s t)

/-- S_CLRALL and F_CLRALL: every entry reads unset, the cursor is 0, the block goes to P with IND_SLOW; nothing else
changes. -/
def Obligations.ClearAllReturnsToPrimary : Prop :=
  (∀ w : Sel, w &&& 0x77#7 = 0x24#7 → decode (.tick w) = .ok (.sClrall (Sel.edgeField w))) ∧
  (∀ w : Sel, w &&& 0x74#7 = 0x44#7 → decode (.tick w) = .ok (.fClrall (Sel.edgeField w))) ∧
  ∀ (s : State) (e : Mask) (i : Instr), i = .sClrall e ∨ i = .fClrall e →
    ∃ t, exec i s = .next t ∧ (∀ a, t.buf.read a = .unset) ∧ t.inputCount = 0 ∧ t.state = .P ∧
      t.out = { ind := .slow, flash := 0b00#2, result := none, err := .none } ∧
      t.lastActiveState = s.lastActiveState ∧ sameSampling s t ∧ sameRamp s t ∧ sameModel s t

/-- F_PACK: a misaligned cursor, then an unset entry below it, is reported and sends the block to P with the buffer kept
and no result; else the bytes of PACK are the result and the state stays. -/
def Obligations.FinalizePackReportsOrPresents : Prop :=
  (∀ w : Sel, w &&& 0x7C#7 = 0x48#7 → decode (.tick w) = .ok (.fPack (Sel.edgeField w))) ∧
  ∀ (s : State) (e : Mask),
    (s.inputCount % 8 ≠ 0 → exec (.fPack e) s = .next
      { s with
        state := .P, out := { ind := .slow, flash := 0b00#2, result := none, err := .misaligned } }) ∧
    (s.inputCount % 8 = 0 → s.inputCount ≤ s.params.capacity →
      (∃ i, i < s.inputCount ∧ s.buf.read i = .unset) → exec (.fPack e) s = .next
      { s with
        state := .P, out := { ind := .slow, flash := 0b00#2, result := none, err := .invariantViolated } }) ∧
    (s.inputCount % 8 = 0 → s.inputCount ≤ s.params.capacity →
      (∀ i, i < s.inputCount → s.buf.read i ≠ .unset) →
      ∃ bs, pack s = .ok (.bytes bs) ∧ bs.length = s.inputCount / 8 ∧
        (∀ j k, j < s.inputCount / 8 → k < 8 →
          (bs.getD j 0#8).getLsbD (7 - k) = (s.buf.read (8 * j + k) == .one)) ∧
        exec (.fPack e) s = .next
          { s with out := { ind := .none, flash := 0b00#2, result := some bs, err := .none } })

/-- Reading has no side effect: F_PACK keeps buffer and cursor, and a later F_PACK, whatever happened between them as
long as buffer and cursor were not written, reports exactly the same. -/
def Obligations.FinalizePackIsRepeatable : Prop :=
  ∀ (s t u : State) (e e' : Mask), exec (.fPack e) s = .next t →
    t.buf = s.buf ∧ t.inputCount = s.inputCount ∧
    (u.buf = t.buf → u.inputCount = t.inputCount → u.params = t.params →
      ∃ v, exec (.fPack e') u = .next v ∧ v.out = t.out)

/-! ### Standby -/

/-- SB_WAKE, its four rows: duty to 0, the saved state resumed with that state's pattern command; the buffer and
everything else as before, whatever the waking edges. INV4 rules out a saved SB. -/
def Obligations.StandbyWakeResumesSavedState : Prop :=
  (∀ w : Sel, w &&& 0x71#7 = 0x61#7 → decode (.tick w) = .ok (.sbWake0 (Sel.edgeField w))) ∧
  (∀ w : Sel, w &&& 0x73#7 = 0x62#7 → decode (.tick w) = .ok (.sbWake1 (Sel.edgeField w))) ∧
  (∀ w : Sel, w &&& 0x77#7 = 0x64#7 → decode (.tick w) = .ok (.sbWake2 (Sel.edgeField w))) ∧
  decode (.tick 0x68#7) = .ok .sbWake3 ∧
  ∀ (s : State) (e : Mask) (i : Instr), s.lastActiveState ≠ .SB →
    i = .sbWake0 e ∨ i = .sbWake1 e ∨ i = .sbWake2 e ∨ i = .sbWake3 →
    exec i s = .next
      { s with
        dutyCycle := 0#7
        state := s.lastActiveState
        out :=
          { ind := entryPattern s.lastActiveState, flash := 0b00#2, result := none, err := .none } }

/-- RAMP_STEP: clamp at 100 and turn, add 5, clamp at 0 and turn, or subtract 5; nothing else changes. -/
def Obligations.RampStepClampsThenReverses : Prop :=
  ∀ s : State,
    (s.rampUp = true → 100 ≤ s.dutyCycle.toNat + 5 →
      rampStep s = { s with dutyCycle := 100#7, rampUp := false }) ∧
    (s.rampUp = true → s.dutyCycle.toNat + 5 < 100 → ∃ t, rampStep s = t ∧
      t = { s with dutyCycle := t.dutyCycle } ∧ t.dutyCycle.toNat = s.dutyCycle.toNat + 5) ∧
    (s.rampUp = false → s.dutyCycle.toNat ≤ 5 →
      rampStep s = { s with dutyCycle := 0#7, rampUp := true }) ∧
    (s.rampUp = false → 5 < s.dutyCycle.toNat → ∃ t, rampStep s = t ∧
      t = { s with dutyCycle := t.dutyCycle } ∧ t.dutyCycle.toNat + 5 = s.dutyCycle.toNat)

/-- SB_RAMP: one RAMP_STEP, and IND_DUTY with the new value; nothing else changes. -/
def Obligations.StandbyRampAppliesNewDuty : Prop :=
  decode (.tick 0x60#7) = .ok .sbRamp ∧
  ∀ s : State, ∃ t, exec .sbRamp s = .next t ∧
    t = { rampStep s with out := { ind := .duty t.dutyCycle, flash := 0b00#2, result := none, err := .none } } ∧
    (s.rampUp = true → t.dutyCycle.toNat = min 100 (s.dutyCycle.toNat + 5) ∧
      t.rampUp = decide (s.dutyCycle.toNat + 5 < 100)) ∧
    (s.rampUp = false → t.dutyCycle.toNat = s.dutyCycle.toNat - 5 ∧
      t.rampUp = decide (s.dutyCycle.toNat ≤ 5)) ∧
    sameSampling s t ∧ sameBuffer s t ∧ sameControl s t ∧ sameModel s t

/-- The breathing sequence: after `n` standby ticks without an edge from standby entry the duty is the triangle of
period 40, the direction turns at its bounds, and the block is still in SB with buffer and saved state kept. -/
def Obligations.RampSequenceIsTriangle : Prop :=
  ∀ (ps : List Pins) (s : State), s.state = .SB → s.dutyCycle = 0#7 → s.rampUp = true →
    s.pending = ps → quietFrom s.prevMask ps →
    ∃ t, run ps.length s = .next t ∧ t.state = .SB ∧ t.dutyCycle.toNat = dutyAfter ps.length ∧
      t.rampUp = decide (ps.length % 40 < 20) ∧ t.lastActiveState = s.lastActiveState ∧ sameBuffer s t

/-- Standby is left, RESET aside, only by a rising edge on a valid tick, to the saved state with duty 0, whatever the
duty was; the edge does nothing else. -/
def Obligations.StandbyLeftOnlyByEdge : Prop :=
  ∀ s t : State, s.state = .SB → (nextPins s).rst = false → step s = .next t →
    (t.state ≠ .SB → (nextPins s).validTick ∧ (nextPins s).btn &&& ~~~s.prevMask ≠ 0b0000#4) ∧
    ((nextPins s).validTick → (nextPins s).btn &&& ~~~s.prevMask ≠ 0b0000#4 →
      t.state = s.lastActiveState ∧ t.dutyCycle = 0#7) ∧
    t.buf = s.buf ∧ t.inputCount = s.inputCount ∧ t.lastActiveState = s.lastActiveState ∧ t.hold = s.hold

/-! ### Failed reads, errors, outputs -/

/-- A tick whose read failed forms the word of no fire and no edge, so it is the idle operation of P, S or F, or a ramp
step in SB; `prev_mask`, `hold`, the control state and the buffer keep their values. -/
def Obligations.FailedReadIsNoEdge : Prop :=
  ∀ (s : State) (p : Pins) (rest : List Pins), s.pending = p :: rest → p.failedTick →
    fetch p s = (.tick (mkSel s.state false 0b0000#4), s) ∧
    (s.state = .P → step s = exec .pIdle { s with pending := rest }) ∧
    (s.state = .S → step s = exec .sIdle { s with pending := rest }) ∧
    (s.state = .F → step s = exec (.fIdle 0b0000#4) { s with pending := rest }) ∧
    (s.state = .SB → step s = exec .sbRamp { s with pending := rest }) ∧
    ∃ t, step s = .next t ∧ sameSampling s t ∧ sameControl s t ∧ sameBuffer s t ∧
      (s.state ≠ .SB → sameRamp s t ∧ t.out = Output.idle)

/-- An error report comes from F alone, comes with the return to P under IND_SLOW, no result and the buffer kept, and
tells a misaligned cursor from an unset entry below an aligned one. -/
def Obligations.ErrorReportImpliesRecovery : Prop :=
  ∀ s t : State, step s = .next t → t.out.err ≠ .none →
    s.state = .F ∧ t.state = .P ∧ t.out.ind = .slow ∧ t.out.result = none ∧
    t.buf = s.buf ∧ t.inputCount = s.inputCount ∧
    (t.out.err = .misaligned → s.inputCount % 8 ≠ 0) ∧
    (t.out.err = .invariantViolated → s.inputCount % 8 = 0 ∧ ∃ i, i < s.inputCount ∧ s.buf.read i = .unset)

/-- InvariantViolated is unreachable: under the invariants of R33 no step reports it. -/
def Obligations.InvariantViolatedIsUnreachable : Prop :=
  ∀ s t : State, Inv s → step s = .next t → t.out.err ≠ .invariantViolated

/-- A flash request comes from a successful push alone, and its one bit is the number of the bit pushed. -/
def Obligations.FlashTellsThePushedBit : Prop :=
  ∀ s t : State, step s = .next t → t.out.flash ≠ 0b00#2 →
    t.inputCount = s.inputCount + 1 ∧
    ((t.out.flash = 0b01#2 ∧ t.buf.read s.inputCount = .zero) ∨
      (t.out.flash = 0b10#2 ∧ t.buf.read s.inputCount = .one))

/-- The codes of the states, indicator commands and error kinds, and that no reserved code is ever emitted. -/
def Obligations.PortCodesAndReservedCodes : Prop :=
  (FsmState.P.code = 0b00#2 ∧ FsmState.S.code = 0b01#2 ∧ FsmState.F.code = 0b10#2 ∧
    FsmState.SB.code = 0b11#2) ∧
  (IndCmd.none.code = 0b000#3 ∧ IndCmd.slow.code = 0b001#3 ∧ IndCmd.fast.code = 0b010#3 ∧
    IndCmd.fastest.code = 0b011#3 ∧ IndCmd.allOn.code = 0b100#3 ∧ ∀ d, (IndCmd.duty d).code = 0b101#3) ∧
  (ErrKind.none.code = 0b00#2 ∧ ErrKind.misaligned.code = 0b01#2 ∧
    ErrKind.invariantViolated.code = 0b10#2) ∧
  (Entry.unset.code = 0b00#2 ∧ Entry.zero.code = 0b10#2 ∧ Entry.one.code = 0b11#2) ∧
  ∀ s : State, portIndCmd s ≠ 0b110#3 ∧ portIndCmd s ≠ 0b111#3 ∧ portErr s ≠ 0b11#2

/-- The result port: byte `j` of the result at bits `8j+7` down to `8j`, zero from the length on; `result_len` and
`count_o` are wide enough for the values they carry. -/
def Obligations.ResultPortLaysOutBytes : Prop :=
  ∀ (s : State) (bs : List Byte), s.out.result = some bs → bs.length ≤ s.params.capacity / 8 →
    portResultValid s = true ∧ (portResultLen s).toNat = bs.length ∧
    (∀ j, j < s.params.capacity / 8 → (portResultBytes s).extractLsb' (8 * j) 8 = bs.getD j 0#8) ∧
    (s.inputCount ≤ s.params.capacity → (portCountO s).toNat = s.inputCount)

/-- The record at the reference actuator: every channel on for IND_ALL_ON, every channel's duty for IND_DUTY, one blink
for the three patterns, and a flash for each bit of `flash`. The blink's channel and pattern id are free values (log
entry 10). -/
def Obligations.ActuatorCallsFollowRecord : Prop :=
  ∀ (n : Nat) (o : Output),
    (∀ c on, ActuatorCall.set c on ∈ actuatorCalls n o ↔ o.ind = .allOn ∧ on = true ∧ c < n) ∧
    (∀ c d, ActuatorCall.setDutyCycle c d ∈ actuatorCalls n o ↔ o.ind = .duty d ∧ c < n) ∧
    (o.ind = .slow ∨ o.ind = .fast ∨ o.ind = .fastest → ∃ c p, indCalls n o.ind = [.blink c p]) ∧
    (∀ k, ActuatorCall.flash k ∈ actuatorCalls n o ↔ k < 2 ∧ o.flash.getLsbD k = true)
end

