-- ==== Sys2Proof/Laws/State.lean ====
section
/-! SUPPORT. One lemma per field per update of the state, so that no proof unfolds a record update. -/

namespace Sys2Proof.Machine

/-! ### `beginOp` -/

@[simp] theorem beginOp_prevMask (s : State) : (beginOp s).prevMask = s.prevMask := rfl
@[simp] theorem beginOp_hold (s : State) : (beginOp s).hold = s.hold := rfl
@[simp] theorem beginOp_buf (s : State) : (beginOp s).buf = s.buf := rfl
@[simp] theorem beginOp_inputCount (s : State) : (beginOp s).inputCount = s.inputCount := rfl
@[simp] theorem beginOp_state (s : State) : (beginOp s).state = s.state := rfl
@[simp] theorem beginOp_lastActiveState (s : State) : (beginOp s).lastActiveState = s.lastActiveState := rfl
@[simp] theorem beginOp_dutyCycle (s : State) : (beginOp s).dutyCycle = s.dutyCycle := rfl
@[simp] theorem beginOp_rampUp (s : State) : (beginOp s).rampUp = s.rampUp := rfl
@[simp] theorem beginOp_params (s : State) : (beginOp s).params = s.params := rfl
@[simp] theorem beginOp_pending (s : State) : (beginOp s).pending = s.pending := rfl
@[simp] theorem beginOp_out (s : State) : (beginOp s).out = Output.idle := rfl

/-! ### `emitInd` -/

@[simp] theorem emitInd_prevMask (c : IndCmd) (s : State) : (emitInd c s).prevMask = s.prevMask := rfl
@[simp] theorem emitInd_hold (c : IndCmd) (s : State) : (emitInd c s).hold = s.hold := rfl
@[simp] theorem emitInd_buf (c : IndCmd) (s : State) : (emitInd c s).buf = s.buf := rfl
@[simp] theorem emitInd_inputCount (c : IndCmd) (s : State) : (emitInd c s).inputCount = s.inputCount := rfl
@[simp] theorem emitInd_state (c : IndCmd) (s : State) : (emitInd c s).state = s.state := rfl
@[simp] theorem emitInd_lastActiveState (c : IndCmd) (s : State) : (emitInd c s).lastActiveState = s.lastActiveState := rfl
@[simp] theorem emitInd_dutyCycle (c : IndCmd) (s : State) : (emitInd c s).dutyCycle = s.dutyCycle := rfl
@[simp] theorem emitInd_rampUp (c : IndCmd) (s : State) : (emitInd c s).rampUp = s.rampUp := rfl
@[simp] theorem emitInd_params (c : IndCmd) (s : State) : (emitInd c s).params = s.params := rfl
@[simp] theorem emitInd_pending (c : IndCmd) (s : State) : (emitInd c s).pending = s.pending := rfl
@[simp] theorem emitInd_out (c : IndCmd) (s : State) : (emitInd c s).out = { s.out with ind := c } := rfl

/-! ### `emitFlash` -/

@[simp] theorem emitFlash_prevMask (b : Bool) (s : State) : (emitFlash b s).prevMask = s.prevMask := rfl
@[simp] theorem emitFlash_hold (b : Bool) (s : State) : (emitFlash b s).hold = s.hold := rfl
@[simp] theorem emitFlash_buf (b : Bool) (s : State) : (emitFlash b s).buf = s.buf := rfl
@[simp] theorem emitFlash_inputCount (b : Bool) (s : State) : (emitFlash b s).inputCount = s.inputCount := rfl
@[simp] theorem emitFlash_state (b : Bool) (s : State) : (emitFlash b s).state = s.state := rfl
@[simp] theorem emitFlash_lastActiveState (b : Bool) (s : State) : (emitFlash b s).lastActiveState = s.lastActiveState := rfl
@[simp] theorem emitFlash_dutyCycle (b : Bool) (s : State) : (emitFlash b s).dutyCycle = s.dutyCycle := rfl
@[simp] theorem emitFlash_rampUp (b : Bool) (s : State) : (emitFlash b s).rampUp = s.rampUp := rfl
@[simp] theorem emitFlash_params (b : Bool) (s : State) : (emitFlash b s).params = s.params := rfl
@[simp] theorem emitFlash_pending (b : Bool) (s : State) : (emitFlash b s).pending = s.pending := rfl
@[simp] theorem emitFlash_out (b : Bool) (s : State) : (emitFlash b s).out = { s.out with flash := if b then 0b10#2 else 0b01#2 } := rfl

/-! ### `emitResult` -/

@[simp] theorem emitResult_prevMask (bs : List Byte) (s : State) : (emitResult bs s).prevMask = s.prevMask := rfl
@[simp] theorem emitResult_hold (bs : List Byte) (s : State) : (emitResult bs s).hold = s.hold := rfl
@[simp] theorem emitResult_buf (bs : List Byte) (s : State) : (emitResult bs s).buf = s.buf := rfl
@[simp] theorem emitResult_inputCount (bs : List Byte) (s : State) : (emitResult bs s).inputCount = s.inputCount := rfl
@[simp] theorem emitResult_state (bs : List Byte) (s : State) : (emitResult bs s).state = s.state := rfl
@[simp] theorem emitResult_lastActiveState (bs : List Byte) (s : State) : (emitResult bs s).lastActiveState = s.lastActiveState := rfl
@[simp] theorem emitResult_dutyCycle (bs : List Byte) (s : State) : (emitResult bs s).dutyCycle = s.dutyCycle := rfl
@[simp] theorem emitResult_rampUp (bs : List Byte) (s : State) : (emitResult bs s).rampUp = s.rampUp := rfl
@[simp] theorem emitResult_params (bs : List Byte) (s : State) : (emitResult bs s).params = s.params := rfl
@[simp] theorem emitResult_pending (bs : List Byte) (s : State) : (emitResult bs s).pending = s.pending := rfl
@[simp] theorem emitResult_out (bs : List Byte) (s : State) : (emitResult bs s).out = { s.out with result := some bs } := rfl

/-! ### `raiseErr` -/

@[simp] theorem raiseErr_prevMask (k : ErrKind) (s : State) : (raiseErr k s).prevMask = s.prevMask := rfl
@[simp] theorem raiseErr_hold (k : ErrKind) (s : State) : (raiseErr k s).hold = s.hold := rfl
@[simp] theorem raiseErr_buf (k : ErrKind) (s : State) : (raiseErr k s).buf = s.buf := rfl
@[simp] theorem raiseErr_inputCount (k : ErrKind) (s : State) : (raiseErr k s).inputCount = s.inputCount := rfl
@[simp] theorem raiseErr_state (k : ErrKind) (s : State) : (raiseErr k s).state = s.state := rfl
@[simp] theorem raiseErr_lastActiveState (k : ErrKind) (s : State) : (raiseErr k s).lastActiveState = s.lastActiveState := rfl
@[simp] theorem raiseErr_dutyCycle (k : ErrKind) (s : State) : (raiseErr k s).dutyCycle = s.dutyCycle := rfl
@[simp] theorem raiseErr_rampUp (k : ErrKind) (s : State) : (raiseErr k s).rampUp = s.rampUp := rfl
@[simp] theorem raiseErr_params (k : ErrKind) (s : State) : (raiseErr k s).params = s.params := rfl
@[simp] theorem raiseErr_pending (k : ErrKind) (s : State) : (raiseErr k s).pending = s.pending := rfl
@[simp] theorem raiseErr_out (k : ErrKind) (s : State) : (raiseErr k s).out = { s.out with err := k } := rfl

/-! ### `clearAll` -/

@[simp] theorem clearAll_prevMask (s : State) : (clearAll s).prevMask = s.prevMask := rfl
@[simp] theorem clearAll_hold (s : State) : (clearAll s).hold = s.hold := rfl
@[simp] theorem clearAll_buf (s : State) : (clearAll s).buf = [] := rfl
@[simp] theorem clearAll_inputCount (s : State) : (clearAll s).inputCount = 0 := rfl
@[simp] theorem clearAll_state (s : State) : (clearAll s).state = s.state := rfl
@[simp] theorem clearAll_lastActiveState (s : State) : (clearAll s).lastActiveState = s.lastActiveState := rfl
@[simp] theorem clearAll_dutyCycle (s : State) : (clearAll s).dutyCycle = s.dutyCycle := rfl
@[simp] theorem clearAll_rampUp (s : State) : (clearAll s).rampUp = s.rampUp := rfl
@[simp] theorem clearAll_params (s : State) : (clearAll s).params = s.params := rfl
@[simp] theorem clearAll_pending (s : State) : (clearAll s).pending = s.pending := rfl
@[simp] theorem clearAll_out (s : State) : (clearAll s).out = s.out := rfl

/-! ### `clearBlock` -/

@[simp] theorem clearBlock_prevMask (i : Nat) (s : State) : (clearBlock i s).prevMask = s.prevMask := rfl
@[simp] theorem clearBlock_hold (i : Nat) (s : State) : (clearBlock i s).hold = s.hold := rfl
@[simp] theorem clearBlock_buf (i : Nat) (s : State) : (clearBlock i s).buf = clearEntries s.params.capacity i Config.block s.buf := rfl
@[simp] theorem clearBlock_inputCount (i : Nat) (s : State) : (clearBlock i s).inputCount = s.inputCount := rfl
@[simp] theorem clearBlock_state (i : Nat) (s : State) : (clearBlock i s).state = s.state := rfl
@[simp] theorem clearBlock_lastActiveState (i : Nat) (s : State) : (clearBlock i s).lastActiveState = s.lastActiveState := rfl
@[simp] theorem clearBlock_dutyCycle (i : Nat) (s : State) : (clearBlock i s).dutyCycle = s.dutyCycle := rfl
@[simp] theorem clearBlock_rampUp (i : Nat) (s : State) : (clearBlock i s).rampUp = s.rampUp := rfl
@[simp] theorem clearBlock_params (i : Nat) (s : State) : (clearBlock i s).params = s.params := rfl
@[simp] theorem clearBlock_pending (i : Nat) (s : State) : (clearBlock i s).pending = s.pending := rfl
@[simp] theorem clearBlock_out (i : Nat) (s : State) : (clearBlock i s).out = s.out := rfl

/-! ### `resetElements` -/

@[simp] theorem resetElements_prevMask (s : State) : (resetElements s).prevMask = 0b0000#4 := rfl
@[simp] theorem resetElements_hold (s : State) : (resetElements s).hold = none := rfl
@[simp] theorem resetElements_buf (s : State) : (resetElements s).buf = [] := rfl
@[simp] theorem resetElements_inputCount (s : State) : (resetElements s).inputCount = 0 := rfl
@[simp] theorem resetElements_state (s : State) : (resetElements s).state = s.state := rfl
@[simp] theorem resetElements_lastActiveState (s : State) : (resetElements s).lastActiveState = .P := rfl
@[simp] theorem resetElements_dutyCycle (s : State) : (resetElements s).dutyCycle = 0#7 := rfl
@[simp] theorem resetElements_rampUp (s : State) : (resetElements s).rampUp = true := rfl
@[simp] theorem resetElements_params (s : State) : (resetElements s).params = s.params := rfl
@[simp] theorem resetElements_pending (s : State) : (resetElements s).pending = s.pending := rfl
@[simp] theorem resetElements_out (s : State) : (resetElements s).out = s.out := rfl

/-! ### `edge`: only the stored mask changes -/

@[simp] theorem edge_prevMask (m : Mask) (s : State) : ((edge m s).2).prevMask = m := rfl
@[simp] theorem edge_hold (m : Mask) (s : State) : ((edge m s).2).hold = s.hold := rfl
@[simp] theorem edge_buf (m : Mask) (s : State) : ((edge m s).2).buf = s.buf := rfl
@[simp] theorem edge_inputCount (m : Mask) (s : State) : ((edge m s).2).inputCount = s.inputCount := rfl
@[simp] theorem edge_state (m : Mask) (s : State) : ((edge m s).2).state = s.state := rfl
@[simp] theorem edge_lastActiveState (m : Mask) (s : State) : ((edge m s).2).lastActiveState = s.lastActiveState := rfl
@[simp] theorem edge_dutyCycle (m : Mask) (s : State) : ((edge m s).2).dutyCycle = s.dutyCycle := rfl
@[simp] theorem edge_rampUp (m : Mask) (s : State) : ((edge m s).2).rampUp = s.rampUp := rfl
@[simp] theorem edge_params (m : Mask) (s : State) : ((edge m s).2).params = s.params := rfl
@[simp] theorem edge_pending (m : Mask) (s : State) : ((edge m s).2).pending = s.pending := rfl
@[simp] theorem edge_out (m : Mask) (s : State) : ((edge m s).2).out = s.out := rfl

/-! ### `holdEval`: only the timer changes -/

@[simp] theorem holdEval_prevMask (m : Mask) (n : Nat) (s : State) : ((holdEval m n s).2).prevMask = s.prevMask := rfl
@[simp] theorem holdEval_hold (m : Mask) (n : Nat) (s : State) : ((holdEval m n s).2).hold = holdNext m n s := rfl
@[simp] theorem holdEval_buf (m : Mask) (n : Nat) (s : State) : ((holdEval m n s).2).buf = s.buf := rfl
@[simp] theorem holdEval_inputCount (m : Mask) (n : Nat) (s : State) : ((holdEval m n s).2).inputCount = s.inputCount := rfl
@[simp] theorem holdEval_state (m : Mask) (n : Nat) (s : State) : ((holdEval m n s).2).state = s.state := rfl
@[simp] theorem holdEval_lastActiveState (m : Mask) (n : Nat) (s : State) : ((holdEval m n s).2).lastActiveState = s.lastActiveState := rfl
@[simp] theorem holdEval_dutyCycle (m : Mask) (n : Nat) (s : State) : ((holdEval m n s).2).dutyCycle = s.dutyCycle := rfl
@[simp] theorem holdEval_rampUp (m : Mask) (n : Nat) (s : State) : ((holdEval m n s).2).rampUp = s.rampUp := rfl
@[simp] theorem holdEval_params (m : Mask) (n : Nat) (s : State) : ((holdEval m n s).2).params = s.params := rfl
@[simp] theorem holdEval_pending (m : Mask) (n : Nat) (s : State) : ((holdEval m n s).2).pending = s.pending := rfl
@[simp] theorem holdEval_out (m : Mask) (n : Nat) (s : State) : ((holdEval m n s).2).out = s.out := rfl

/-! ### `goTo` into P, S and F: the state and its pattern command -/

@[simp] theorem goTo_P_prevMask (s : State) : (goTo .P s).prevMask = s.prevMask := rfl
@[simp] theorem goTo_P_hold (s : State) : (goTo .P s).hold = s.hold := rfl
@[simp] theorem goTo_P_buf (s : State) : (goTo .P s).buf = s.buf := rfl
@[simp] theorem goTo_P_inputCount (s : State) : (goTo .P s).inputCount = s.inputCount := rfl
@[simp] theorem goTo_P_state (s : State) : (goTo .P s).state = .P := rfl
@[simp] theorem goTo_P_lastActiveState (s : State) : (goTo .P s).lastActiveState = s.lastActiveState := rfl
@[simp] theorem goTo_P_dutyCycle (s : State) : (goTo .P s).dutyCycle = s.dutyCycle := rfl
@[simp] theorem goTo_P_rampUp (s : State) : (goTo .P s).rampUp = s.rampUp := rfl
@[simp] theorem goTo_P_params (s : State) : (goTo .P s).params = s.params := rfl
@[simp] theorem goTo_P_pending (s : State) : (goTo .P s).pending = s.pending := rfl
@[simp] theorem goTo_P_out (s : State) : (goTo .P s).out = { s.out with ind := .slow } := rfl
@[simp] theorem goTo_S_prevMask (s : State) : (goTo .S s).prevMask = s.prevMask := rfl
@[simp] theorem goTo_S_hold (s : State) : (goTo .S s).hold = s.hold := rfl
@[simp] theorem goTo_S_buf (s : State) : (goTo .S s).buf = s.buf := rfl
@[simp] theorem goTo_S_inputCount (s : State) : (goTo .S s).inputCount = s.inputCount := rfl
@[simp] theorem goTo_S_state (s : State) : (goTo .S s).state = .S := rfl
@[simp] theorem goTo_S_lastActiveState (s : State) : (goTo .S s).lastActiveState = s.lastActiveState := rfl
@[simp] theorem goTo_S_dutyCycle (s : State) : (goTo .S s).dutyCycle = s.dutyCycle := rfl
@[simp] theorem goTo_S_rampUp (s : State) : (goTo .S s).rampUp = s.rampUp := rfl
@[simp] theorem goTo_S_params (s : State) : (goTo .S s).params = s.params := rfl
@[simp] theorem goTo_S_pending (s : State) : (goTo .S s).pending = s.pending := rfl
@[simp] theorem goTo_S_out (s : State) : (goTo .S s).out = { s.out with ind := .fast } := rfl
@[simp] theorem goTo_F_prevMask (s : State) : (goTo .F s).prevMask = s.prevMask := rfl
@[simp] theorem goTo_F_hold (s : State) : (goTo .F s).hold = s.hold := rfl
@[simp] theorem goTo_F_buf (s : State) : (goTo .F s).buf = s.buf := rfl
@[simp] theorem goTo_F_inputCount (s : State) : (goTo .F s).inputCount = s.inputCount := rfl
@[simp] theorem goTo_F_state (s : State) : (goTo .F s).state = .F := rfl
@[simp] theorem goTo_F_lastActiveState (s : State) : (goTo .F s).lastActiveState = s.lastActiveState := rfl
@[simp] theorem goTo_F_dutyCycle (s : State) : (goTo .F s).dutyCycle = s.dutyCycle := rfl
@[simp] theorem goTo_F_rampUp (s : State) : (goTo .F s).rampUp = s.rampUp := rfl
@[simp] theorem goTo_F_params (s : State) : (goTo .F s).params = s.params := rfl
@[simp] theorem goTo_F_pending (s : State) : (goTo .F s).pending = s.pending := rfl
@[simp] theorem goTo_F_out (s : State) : (goTo .F s).out = { s.out with ind := .fastest } := rfl

/-! ### `goTo` into SB: the ramp starts at 0 going up -/

@[simp] theorem goTo_SB_prevMask (s : State) : (goTo .SB s).prevMask = s.prevMask := rfl
@[simp] theorem goTo_SB_hold (s : State) : (goTo .SB s).hold = s.hold := rfl
@[simp] theorem goTo_SB_buf (s : State) : (goTo .SB s).buf = s.buf := rfl
@[simp] theorem goTo_SB_inputCount (s : State) : (goTo .SB s).inputCount = s.inputCount := rfl
@[simp] theorem goTo_SB_state (s : State) : (goTo .SB s).state = .SB := rfl
@[simp] theorem goTo_SB_lastActiveState (s : State) : (goTo .SB s).lastActiveState = s.lastActiveState := rfl
@[simp] theorem goTo_SB_dutyCycle (s : State) : (goTo .SB s).dutyCycle = 0#7 := rfl
@[simp] theorem goTo_SB_rampUp (s : State) : (goTo .SB s).rampUp = true := rfl
@[simp] theorem goTo_SB_params (s : State) : (goTo .SB s).params = s.params := rfl
@[simp] theorem goTo_SB_pending (s : State) : (goTo .SB s).pending = s.pending := rfl
@[simp] theorem goTo_SB_out (s : State) : (goTo .SB s).out = { s.out with ind := .allOn } := rfl

/-! ### `enterStandby` -/

@[simp] theorem enterStandby_prevMask (t : FsmState) (s : State) : (enterStandby t s).prevMask = s.prevMask := rfl
@[simp] theorem enterStandby_hold (t : FsmState) (s : State) : (enterStandby t s).hold = s.hold := rfl
@[simp] theorem enterStandby_buf (t : FsmState) (s : State) : (enterStandby t s).buf = s.buf := rfl
@[simp] theorem enterStandby_inputCount (t : FsmState) (s : State) : (enterStandby t s).inputCount = s.inputCount := rfl
@[simp] theorem enterStandby_state (t : FsmState) (s : State) : (enterStandby t s).state = .SB := rfl
@[simp] theorem enterStandby_lastActiveState (t : FsmState) (s : State) : (enterStandby t s).lastActiveState = t := rfl
@[simp] theorem enterStandby_dutyCycle (t : FsmState) (s : State) : (enterStandby t s).dutyCycle = 0#7 := rfl
@[simp] theorem enterStandby_rampUp (t : FsmState) (s : State) : (enterStandby t s).rampUp = true := rfl
@[simp] theorem enterStandby_params (t : FsmState) (s : State) : (enterStandby t s).params = s.params := rfl
@[simp] theorem enterStandby_pending (t : FsmState) (s : State) : (enterStandby t s).pending = s.pending := rfl
@[simp] theorem enterStandby_out (t : FsmState) (s : State) : (enterStandby t s).out = { s.out with ind := .allOn } := rfl

/-! ### `recoverToPrimary` -/

@[simp] theorem recoverToPrimary_prevMask (k : ErrKind) (s : State) : (recoverToPrimary k s).prevMask = s.prevMask := rfl
@[simp] theorem recoverToPrimary_hold (k : ErrKind) (s : State) : (recoverToPrimary k s).hold = s.hold := rfl
@[simp] theorem recoverToPrimary_buf (k : ErrKind) (s : State) : (recoverToPrimary k s).buf = s.buf := rfl
@[simp] theorem recoverToPrimary_inputCount (k : ErrKind) (s : State) : (recoverToPrimary k s).inputCount = s.inputCount := rfl
@[simp] theorem recoverToPrimary_state (k : ErrKind) (s : State) : (recoverToPrimary k s).state = .P := rfl
@[simp] theorem recoverToPrimary_lastActiveState (k : ErrKind) (s : State) : (recoverToPrimary k s).lastActiveState = s.lastActiveState := rfl
@[simp] theorem recoverToPrimary_dutyCycle (k : ErrKind) (s : State) : (recoverToPrimary k s).dutyCycle = s.dutyCycle := rfl
@[simp] theorem recoverToPrimary_rampUp (k : ErrKind) (s : State) : (recoverToPrimary k s).rampUp = s.rampUp := rfl
@[simp] theorem recoverToPrimary_params (k : ErrKind) (s : State) : (recoverToPrimary k s).params = s.params := rfl
@[simp] theorem recoverToPrimary_pending (k : ErrKind) (s : State) : (recoverToPrimary k s).pending = s.pending := rfl
@[simp] theorem recoverToPrimary_out (k : ErrKind) (s : State) : (recoverToPrimary k s).out = { s.out with err := k, ind := .slow } := rfl

/-! ### `goTo` and `leaveStandby`, whatever the state gone to -/

@[simp] theorem goTo_prevMask (t : FsmState) (s : State) : (goTo t s).prevMask = s.prevMask := by cases t <;> rfl
@[simp] theorem goTo_hold (t : FsmState) (s : State) : (goTo t s).hold = s.hold := by cases t <;> rfl
@[simp] theorem goTo_buf (t : FsmState) (s : State) : (goTo t s).buf = s.buf := by cases t <;> rfl
@[simp] theorem goTo_inputCount (t : FsmState) (s : State) : (goTo t s).inputCount = s.inputCount := by cases t <;> rfl
@[simp] theorem goTo_state (t : FsmState) (s : State) : (goTo t s).state = t := by cases t <;> rfl
@[simp] theorem goTo_lastActiveState (t : FsmState) (s : State) : (goTo t s).lastActiveState = s.lastActiveState := by cases t <;> rfl
@[simp] theorem goTo_params (t : FsmState) (s : State) : (goTo t s).params = s.params := by cases t <;> rfl
@[simp] theorem goTo_pending (t : FsmState) (s : State) : (goTo t s).pending = s.pending := by cases t <;> rfl
@[simp] theorem leaveStandby_prevMask (s : State) : (leaveStandby s).prevMask = s.prevMask := by simp [leaveStandby]
@[simp] theorem leaveStandby_hold (s : State) : (leaveStandby s).hold = s.hold := by simp [leaveStandby]
@[simp] theorem leaveStandby_buf (s : State) : (leaveStandby s).buf = s.buf := by simp [leaveStandby]
@[simp] theorem leaveStandby_inputCount (s : State) : (leaveStandby s).inputCount = s.inputCount := by simp [leaveStandby]
@[simp] theorem leaveStandby_state (s : State) : (leaveStandby s).state = s.lastActiveState := by simp [leaveStandby]
@[simp] theorem leaveStandby_lastActiveState (s : State) : (leaveStandby s).lastActiveState = s.lastActiveState := by simp [leaveStandby]
@[simp] theorem leaveStandby_params (s : State) : (leaveStandby s).params = s.params := by simp [leaveStandby]
@[simp] theorem leaveStandby_pending (s : State) : (leaveStandby s).pending = s.pending := by simp [leaveStandby]

/-- Standby return leaves the duty at 0, whatever state it resumes (R159). -/
@[simp] theorem leaveStandby_dutyCycle (s : State) : (leaveStandby s).dutyCycle = 0#7 := by
  unfold leaveStandby
  cases s.lastActiveState <;> rfl

end Sys2Proof.Machine
end

