-- ==== Sys2Proof/Laws/Memory.lean ====
section
/-! SUPPORT. The buffer as memory: a read after a write, and the canonical form that every write keeps (R15, R50). -/

namespace Sys2Proof.Machine

@[simp] theorem Memory.read_nil (i : Nat) : Memory.read [] i = .unset := rfl

@[simp] theorem Entry.ofBit_ne_unset (b : Bool) : Entry.ofBit b ≠ .unset := by cases b <;> decide

@[simp] theorem Entry.unset_ne_ofBit (b : Bool) : Entry.unset ≠ Entry.ofBit b := by cases b <;> decide

@[simp] theorem Entry.ofBit_inj (b c : Bool) : Entry.ofBit b = Entry.ofBit c ↔ b = c := by
  cases b <;> cases c <;> decide

@[simp] theorem Entry.ofBit_eq_one (b : Bool) : (Entry.ofBit b == .one) = b := by cases b <;> rfl

/-- Reading after a put: the new bit at its index, everything else as before. -/
theorem Memory.read_put (m : Memory) (i j : Nat) (b : Bool) :
    (m.put i b).read j = if j = i then Entry.ofBit b else m.read j := by
  induction m with
  | nil => simp [Memory.put, Memory.read, eq_comm]
  | cons c m ih =>
    obtain ⟨a, v⟩ := c
    simp only [Memory.put]
    split
    · simp [Memory.read, eq_comm]
    · split
      · subst i
        simp only [Memory.read, eq_comm (a := a)]
        split <;> rfl
      · simp only [Memory.read, ih]
        by_cases h : a = j
        · subst h
          simp only [if_true]
          rw [if_neg (by omega)]
        · simp [h]

/-- Reading after an erase: unset at its index, everything else as before. -/
theorem Memory.read_erase (m : Memory) (i j : Nat) :
    (m.erase i).read j = if j = i then .unset else m.read j := by
  induction m with
  | nil => simp [Memory.erase, Memory.read]
  | cons c m ih =>
    obtain ⟨a, v⟩ := c
    simp only [Memory.erase]
    by_cases ha : a = i
    · subst ha
      simp only [if_true, ih, Memory.read]
      by_cases hj : j = a
      · simp [hj]
      · simp [hj, Ne.symm hj]
    · simp only [ha, if_false, Memory.read, ih]
      by_cases hj : a = j
      · subst hj
        simp [ha]
      · simp [hj]

/-- A read after a write: the written entry at its index, everything else as before. -/
theorem Memory.read_write (m : Memory) (i j : Nat) (v : Entry) :
    (m.write i v).read j = if j = i then v else m.read j := by
  cases v
  · exact m.read_erase i j
  · exact m.read_put i j false
  · exact m.read_put i j true

@[simp] theorem Memory.read_write_same (m : Memory) (i : Nat) (v : Entry) : (m.write i v).read i = v := by
  simp [Memory.read_write]

theorem Memory.read_write_other (m : Memory) {i j : Nat} (v : Entry) (h : j ≠ i) :
    (m.write i v).read j = m.read j := by
  simp [Memory.read_write, h]

/-! ### The canonical form -/

theorem Memory.mem_put {m : Memory} {i : Nat} {b : Bool} {c : Nat × Bool} (h : c ∈ m.put i b) :
    c = (i, b) ∨ c ∈ m := by
  induction m with
  | nil => simpa [Memory.put] using h
  | cons d m ih =>
    simp only [Memory.put] at h
    split at h
    · simpa using h
    · split at h
      · rcases List.mem_cons.1 h with h | h
        · exact .inl h
        · exact .inr (List.mem_cons_of_mem _ h)
      · rcases List.mem_cons.1 h with h | h
        · exact .inr (h ▸ List.mem_cons_self)
        · rcases ih h with h | h
          · exact .inl h
          · exact .inr (List.mem_cons_of_mem _ h)

theorem Memory.mem_erase {m : Memory} {i : Nat} {c : Nat × Bool} (h : c ∈ m.erase i) : c ∈ m := by
  induction m with
  | nil => simp [Memory.erase] at h
  | cons d m ih =>
    simp only [Memory.erase] at h
    split at h
    · exact List.mem_cons_of_mem _ (ih h)
    · rcases List.mem_cons.1 h with h | h
      · exact h ▸ List.mem_cons_self
      · exact List.mem_cons_of_mem _ (ih h)

theorem Memory.pairwise_put {m : Memory} (i : Nat) (b : Bool)
    (h : m.Pairwise (fun x y => x.1 < y.1)) : (m.put i b).Pairwise (fun x y => x.1 < y.1) := by
  induction m with
  | nil => simp [Memory.put]
  | cons d m ih =>
    obtain ⟨a, v⟩ := d
    obtain ⟨hd, ht⟩ := List.pairwise_cons.1 h
    simp only [Memory.put]
    split
    · next hi =>
      refine List.pairwise_cons.2 ⟨fun c hc => ?_, h⟩
      rcases List.mem_cons.1 hc with rfl | hc
      · exact hi
      · exact Nat.lt_trans hi (hd c hc)
    · split
      · next hi => subst hi; exact List.pairwise_cons.2 ⟨hd, ht⟩
      · refine List.pairwise_cons.2 ⟨fun c hc => ?_, ih ht⟩
        rcases Memory.mem_put hc with rfl | hc
        · show a < i
          omega
        · exact hd c hc

theorem Memory.pairwise_erase {m : Memory} (i : Nat) (h : m.Pairwise (fun x y => x.1 < y.1)) :
    (m.erase i).Pairwise (fun x y => x.1 < y.1) := by
  induction m with
  | nil => simp [Memory.erase]
  | cons d m ih =>
    obtain ⟨hd, ht⟩ := List.pairwise_cons.1 h
    simp only [Memory.erase]
    split
    · exact ih ht
    · exact List.pairwise_cons.2 ⟨fun c hc => hd c (Memory.mem_erase hc), ih ht⟩

/-- The empty buffer is in canonical form. -/
theorem Memory.wf_nil (cap : Nat) : Memory.wf cap [] := by simp [Memory.wf]

/-- A write at an index that exists keeps the canonical form. -/
theorem Memory.wf_write {cap : Nat} {m : Memory} {i : Nat} (v : Entry) (hi : i < cap)
    (h : Memory.wf cap m) : Memory.wf cap (m.write i v) := by
  have hput : ∀ b, Memory.wf cap (m.put i b) := fun b =>
    ⟨Memory.pairwise_put i b h.1, fun c hc => by
      rcases Memory.mem_put hc with rfl | hc
      · exact hi
      · exact h.2 c hc⟩
  cases v
  · exact ⟨Memory.pairwise_erase i h.1, fun c hc => h.2 c (Memory.mem_erase hc)⟩
  · exact hput false
  · exact hput true

/-- Two canonical buffers that read alike are the same list. -/
theorem Memory.ext_of_pairwise {m n : Memory} (hm : m.Pairwise (fun x y => x.1 < y.1))
    (hn : n.Pairwise (fun x y => x.1 < y.1)) (h : ∀ i, m.read i = n.read i) : m = n := by
  have above : ∀ {l : Memory} {a : Nat}, (∀ c ∈ l, a < c.1) → l.read a = .unset := by
    intro l a hl
    induction l with
    | nil => rfl
    | cons d l ih =>
      have := hl d List.mem_cons_self
      simp only [Memory.read]
      rw [if_neg (by omega)]
      exact ih fun c hc => hl c (List.mem_cons_of_mem _ hc)
  induction m generalizing n with
  | nil =>
    cases n with
    | nil => rfl
    | cons d n => exact absurd (h d.1) (by simp [Memory.read])
  | cons d m ih =>
    cases n with
    | nil => exact absurd (h d.1) (by simp [Memory.read])
    | cons e n =>
      obtain ⟨a, v⟩ := d
      obtain ⟨b, w⟩ := e
      obtain ⟨hd, hm'⟩ := List.pairwise_cons.1 hm
      obtain ⟨he, hn'⟩ := List.pairwise_cons.1 hn
      have hab : a = b := by
        rcases Nat.lt_trichotomy a b with hlt | heq | hlt
        · have := h a
          rw [above (l := (b, w) :: n) (a := a) (fun c hc => by
            rcases List.mem_cons.1 hc with rfl | hc
            · exact hlt
            · exact Nat.lt_trans hlt (he c hc))] at this
          simp [Memory.read] at this
        · exact heq
        · have := h b
          rw [above (l := (a, v) :: m) (a := b) (fun c hc => by
            rcases List.mem_cons.1 hc with rfl | hc
            · exact hlt
            · exact Nat.lt_trans hlt (hd c hc))] at this
          simp [Memory.read] at this
      subst hab
      have hv : v = w := by simpa [Memory.read] using h a
      subst hv
      congr 1
      refine ih hm' hn' fun i => ?_
      by_cases hi : a = i
      · subst hi
        rw [above hd, above he]
      · simpa [Memory.read, hi] using h i

/-! ### CLEAR_BLOCK -/

/-- Reading after clearing `k` entries from `start` on (R121). -/
theorem read_clearEntries (cap start : Nat) (m : Memory) (k j : Nat) :
    (clearEntries cap start k m).read j =
      if start ≤ j ∧ j < start + k ∧ j < cap then .unset else m.read j := by
  induction k with
  | zero => simp [clearEntries]; omega
  | succ k ih =>
    simp only [clearEntries]
    split
    · next hlt =>
      rw [Memory.read_write, ih]
      by_cases hj : j = start + k
      · subst hj
        simp [hlt]
      · simp only [hj, if_false]
        congr 1
        simp only [eq_iff_iff]
        omega
    · next hge =>
      rw [ih]
      congr 1
      simp only [eq_iff_iff]
      omega

theorem wf_clearEntries {cap : Nat} (start k : Nat) {m : Memory} (h : Memory.wf cap m) :
    Memory.wf cap (clearEntries cap start k m) := by
  induction k with
  | zero => exact h
  | succ k ih =>
    simp only [clearEntries]
    split
    · next hlt => exact Memory.wf_write _ hlt ih
    · exact ih

/-! ### The memory operations of the state keep the form -/

/-- Everything `memWrite` can do: write an entry that exists, or fault. -/
theorem memWrite_ok {s s' : State} {i : Nat} {v : Entry} (h : memWrite s i v = .ok s') :
    i < s.params.capacity ∧ s' = { s with buf := s.buf.write i v } := by
  unfold memWrite at h
  split at h
  · next hi => exact ⟨hi, by cases h; rfl⟩
  · cases h

theorem memWrite_wf {s s' : State} {i : Nat} {v : Entry} (h : memWrite s i v = .ok s')
    (hs : s.buf.wf s.params.capacity) : s'.buf.wf s'.params.capacity := by
  obtain ⟨hi, rfl⟩ := memWrite_ok h
  exact Memory.wf_write v hi hs

theorem clearBlock_wf (start : Nat) {s : State} (hs : s.buf.wf s.params.capacity) :
    (clearBlock start s).buf.wf (clearBlock start s).params.capacity :=
  wf_clearEntries start _ hs

theorem clearAll_wf (s : State) : (clearAll s).buf.wf (clearAll s).params.capacity :=
  Memory.wf_nil _

/-- The memory of the reset state is in canonical form. -/
theorem resetWith_wf (p : Params) : (State.resetWith p).buf.wf (State.resetWith p).params.capacity :=
  Memory.wf_nil _

theorem reset_wf : State.reset.buf.wf State.reset.params.capacity :=
  Memory.wf_nil _

end Sys2Proof.Machine
end

