-- ==== Sys2Proof/Laws/Ops.lean ====
section
/-! SUPPORT. One lemma per shared operation that says everything it can do. -/

namespace Sys2Proof.Machine

/-! ### Flags -/

@[simp] theorem full_iff (s : State) : full s = true ↔ s.inputCount = s.params.capacity := by simp [full]

@[simp] theorem aligned_iff (s : State) : aligned s = true ↔ s.inputCount % 8 = 0 := by simp [aligned]

@[simp] theorem chord_iff (pr : Params) (m : Mask) :
    chord pr m = true ↔ m &&& pr.chordMask = pr.chordMask := by simp [chord]

@[simp] theorem holdDue_iff (pr : Params) (t now : Nat) :
    holdDue pr t now = true ↔ 3000 ≤ subMod pr.timeW now t := by simp [holdDue]

/-! ### HOLD_EVAL (R110) -/

/-- HOLD_EVAL fires exactly when a timer runs, the chord is present and the timer is due. -/
theorem holdFires_iff (m : Mask) (now : Nat) (s : State) :
    holdFires m now s = true ↔
      ∃ t, s.hold = some t ∧ chord s.params m = true ∧ holdDue s.params t now = true := by
  unfold holdFires
  cases s.hold <;> simp

/-- A firing HOLD_EVAL clears the timer. -/
theorem holdNext_of_fires {m : Mask} {now : Nat} {s : State} (h : holdFires m now s = true) :
    holdNext m now s = none := by
  obtain ⟨t, ht, hc, hd⟩ := (holdFires_iff m now s).1 h
  simp [holdNext, ht, hc, hd]

/-- A timer runs after HOLD_EVAL only where the chord is present. -/
theorem chord_of_holdNext {m : Mask} {now t : Nat} {s : State} (h : holdNext m now s = some t) :
    chord s.params m = true := by
  unfold holdNext at h
  split at h
  · assumption
  · cases h

/-- The instant a timer holds after HOLD_EVAL is this tick's or the one it held before. -/
theorem holdNext_eq_some {m : Mask} {now t : Nat} {s : State} (h : holdNext m now s = some t) :
    t = now ∨ s.hold = some t := by
  unfold holdNext at h
  split at h
  · cases hs : s.hold with
    | none => rw [hs] at h; exact .inl (by simpa using h.symm)
    | some u =>
      rw [hs] at h
      simp only at h
      split at h
      · cases h
      · exact .inr h
  · cases h

/-! ### PUSH (R120) -/

/-- Everything PUSH can do: nothing on a full buffer, or the bit at the cursor, or a fault past CAPACITY. -/
theorem push_ok {b ok : Bool} {s s' : State} (h : push b s = .ok (ok, s')) :
    (s.inputCount = s.params.capacity ∧ ok = false ∧ s' = s) ∨
    (s.inputCount < s.params.capacity ∧ ok = true ∧
      s' = { s with buf := s.buf.write s.inputCount (Entry.ofBit b), inputCount := s.inputCount + 1 }) := by
  unfold push at h
  split at h
  · next hf => exact .inl ⟨by simpa using hf, by cases h; exact ⟨rfl, rfl⟩⟩
  · split at h
    · next s₁ hw =>
      obtain ⟨hi, rfl⟩ := memWrite_ok hw
      exact .inr ⟨hi, by cases h; exact ⟨rfl, rfl⟩⟩
    · cases h

theorem push_full (b : Bool) {s : State} (h : s.inputCount = s.params.capacity) :
    push b s = .ok (false, s) := by
  simp [push, full, h]

theorem push_of_lt (b : Bool) {s : State} (h : s.inputCount < s.params.capacity) :
    push b s = .ok (true,
      { s with buf := s.buf.write s.inputCount (Entry.ofBit b), inputCount := s.inputCount + 1 }) := by
  have hf : full s = false := by simp [full]; omega
  simp [push, hf, memWrite, h]

theorem push_error {b : Bool} {s : State} {r : Fault} (h : push b s = .error r) :
    s.params.capacity < s.inputCount := by
  rcases Nat.lt_trichotomy s.inputCount s.params.capacity with hl | he | hg
  · rw [push_of_lt b hl] at h; cases h
  · rw [push_full b he] at h; cases h
  · exact hg

/-! ### CLEAR_CURRENT_BLOCK (R122) -/

/-- The block start is a multiple of 8 at most 7 below the most recently written index. -/
theorem currentBlockStart_spec (n : Nat) :
    currentBlockStart n % 8 = 0 ∧ currentBlockStart n ≤ n - 1 ∧ n - 1 < currentBlockStart n + 8 := by
  simp only [currentBlockStart, Config.block]
  omega

theorem clearCurrentBlock_zero {s : State} (h : s.inputCount = 0) : clearCurrentBlock s = s := by
  simp [clearCurrentBlock, h]

theorem clearCurrentBlock_of_ne {s : State} (h : s.inputCount ≠ 0) :
    clearCurrentBlock s =
      { s with
        buf := clearEntries s.params.capacity (currentBlockStart s.inputCount) Config.block s.buf
        inputCount := currentBlockStart s.inputCount } := by
  simp [clearCurrentBlock, h, clearBlock]

theorem clearCurrentBlock_wf {s : State} (hs : s.buf.wf s.params.capacity) :
    (clearCurrentBlock s).buf.wf (clearCurrentBlock s).params.capacity := by
  by_cases h : s.inputCount = 0
  · rw [clearCurrentBlock_zero h]; exact hs
  · rw [clearCurrentBlock_of_ne h]; exact wf_clearEntries _ _ hs

/-! ### PACK (R124) -/

@[simp] theorem holeBelowCursor_iff (s : State) :
    holeBelowCursor s = true ↔ ∃ i, i < s.inputCount ∧ s.buf.read i = .unset := by
  simp [holeBelowCursor]

/-- Everything PACK can answer. -/
theorem pack_cases (s : State) :
    (s.inputCount % 8 ≠ 0 ∧ pack s = .ok .misaligned) ∨
    (s.inputCount % 8 = 0 ∧ s.params.capacity < s.inputCount ∧
      pack s = .error (.bufferIndexOutOfRange s.params.capacity)) ∨
    (s.inputCount % 8 = 0 ∧ s.inputCount ≤ s.params.capacity ∧ holeBelowCursor s = true ∧
      pack s = .ok .invariantViolated) ∨
    (s.inputCount % 8 = 0 ∧ s.inputCount ≤ s.params.capacity ∧ holeBelowCursor s = false ∧
      pack s = .ok (.bytes ((List.range (s.inputCount / 8)).map (packByte s.buf)))) := by
  unfold pack
  by_cases ha : aligned s = true
  · have h8 : s.inputCount % 8 = 0 := by simpa using ha
    by_cases hc : s.params.capacity < s.inputCount
    · exact .inr (.inl ⟨h8, hc, by simp only [ha, hc, if_true]⟩)
    · cases hh : holeBelowCursor s
      · exact .inr (.inr (.inr ⟨h8, by omega, rfl, by simp [ha, hc]⟩))
      · exact .inr (.inr (.inl ⟨h8, by omega, rfl, by simp [ha, hc]⟩))
  · exact .inl ⟨by simpa using ha, by simp only [Bool.not_eq_true] at ha; simp [ha]⟩

/-- PACK reads the buffer, the cursor and CAPACITY, nothing else. -/
theorem pack_congr {s t : State} (hb : s.buf = t.buf) (hc : s.inputCount = t.inputCount)
    (hp : s.params = t.params) : pack s = pack t := by
  unfold pack aligned holeBelowCursor
  rw [hb, hc, hp]

/-- The number a packed entry contributes. -/
theorem Entry.bitVal_eq (e : Entry) : e.bitVal = (e == .one).toNat := by cases e <;> rfl

/-- The byte that eight bits make, most significant first. -/
def byteOfBits (b0 b1 b2 b3 b4 b5 b6 b7 : Bool) : Byte :=
  BitVec.ofNat 8 (b0.toNat <<< 7 + (b1.toNat <<< 6 + (b2.toNat <<< 5 + (b3.toNat <<< 4 +
    (b4.toNat <<< 3 + (b5.toNat <<< 2 + (b6.toNat <<< 1 + (b7.toNat <<< 0 + 0))))))))

theorem byteOfBits_getLsbD : ∀ b0 b1 b2 b3 b4 b5 b6 b7 : Bool,
    (byteOfBits b0 b1 b2 b3 b4 b5 b6 b7).getLsbD 7 = b0 ∧ (byteOfBits b0 b1 b2 b3 b4 b5 b6 b7).getLsbD 6 = b1 ∧
    (byteOfBits b0 b1 b2 b3 b4 b5 b6 b7).getLsbD 5 = b2 ∧ (byteOfBits b0 b1 b2 b3 b4 b5 b6 b7).getLsbD 4 = b3 ∧
    (byteOfBits b0 b1 b2 b3 b4 b5 b6 b7).getLsbD 3 = b4 ∧ (byteOfBits b0 b1 b2 b3 b4 b5 b6 b7).getLsbD 2 = b5 ∧
    (byteOfBits b0 b1 b2 b3 b4 b5 b6 b7).getLsbD 1 = b6 ∧ (byteOfBits b0 b1 b2 b3 b4 b5 b6 b7).getLsbD 0 = b7 := by
  decide

theorem packByte_eq (m : Memory) (j : Nat) :
    packByte m j =
      byteOfBits (m.read (8 * j) == .one) (m.read (8 * j + 1) == .one) (m.read (8 * j + 2) == .one)
        (m.read (8 * j + 3) == .one) (m.read (8 * j + 4) == .one) (m.read (8 * j + 5) == .one)
        (m.read (8 * j + 6) == .one) (m.read (8 * j + 7) == .one) := by
  unfold packByte byteOfBits
  simp only [Config.block, Entry.bitVal_eq]
  rfl

/-- Bit `7 - k` of byte `j` is entry `8j + k` (R52). -/
theorem packByte_getLsbD (m : Memory) (j : Nat) {k : Nat} (h : k < 8) :
    (packByte m j).getLsbD (7 - k) = (m.read (8 * j + k) == .one) := by
  rw [packByte_eq]
  obtain ⟨h0, h1, h2, h3, h4, h5, h6, h7⟩ := byteOfBits_getLsbD (m.read (8 * j) == .one)
    (m.read (8 * j + 1) == .one) (m.read (8 * j + 2) == .one) (m.read (8 * j + 3) == .one)
    (m.read (8 * j + 4) == .one) (m.read (8 * j + 5) == .one) (m.read (8 * j + 6) == .one)
    (m.read (8 * j + 7) == .one)
  interval_cases k
  · exact h0
  · exact h1
  · exact h2
  · exact h3
  · exact h4
  · exact h5
  · exact h6
  · exact h7

/-! ### RAMP_STEP (R180) -/

/-- Everything RAMP_STEP can do. -/
theorem rampStep_cases (s : State) :
    (s.rampUp = true ∧ 95 ≤ s.dutyCycle.toNat ∧
      rampStep s = { s with dutyCycle := 100#7, rampUp := false }) ∨
    (s.rampUp = true ∧ s.dutyCycle.toNat < 95 ∧
      rampStep s = { s with dutyCycle := BitVec.ofNat 7 (s.dutyCycle.toNat + 5) }) ∨
    (s.rampUp = false ∧ s.dutyCycle.toNat ≤ 5 ∧
      rampStep s = { s with dutyCycle := 0#7, rampUp := true }) ∨
    (s.rampUp = false ∧ 5 < s.dutyCycle.toNat ∧
      rampStep s = { s with dutyCycle := BitVec.ofNat 7 (s.dutyCycle.toNat - 5) }) := by
  unfold rampStep
  simp only [Config.dutyMax, Config.step, Config.dutyMin, Nat.zero_add]
  cases hr : s.rampUp
  · by_cases hd : s.dutyCycle.toNat ≤ 5
    · exact .inr (.inr (.inl ⟨rfl, hd, by simp [hd]⟩))
    · exact .inr (.inr (.inr ⟨rfl, by omega, by simp [hd]⟩))
  · by_cases hd : 100 ≤ s.dutyCycle.toNat + 5
    · exact .inl ⟨rfl, by omega, by simp [hd]⟩
    · exact .inr (.inl ⟨rfl, by omega, by simp [hd]⟩)

/-! ### RAMP_STEP: only the duty value and the direction change -/

@[simp] theorem rampStep_prevMask (s : State) : (rampStep s).prevMask = s.prevMask := by
  unfold rampStep; split_ifs <;> rfl
@[simp] theorem rampStep_hold (s : State) : (rampStep s).hold = s.hold := by
  unfold rampStep; split_ifs <;> rfl
@[simp] theorem rampStep_buf (s : State) : (rampStep s).buf = s.buf := by
  unfold rampStep; split_ifs <;> rfl
@[simp] theorem rampStep_inputCount (s : State) : (rampStep s).inputCount = s.inputCount := by
  unfold rampStep; split_ifs <;> rfl
@[simp] theorem rampStep_state (s : State) : (rampStep s).state = s.state := by
  unfold rampStep; split_ifs <;> rfl
@[simp] theorem rampStep_lastActiveState (s : State) : (rampStep s).lastActiveState = s.lastActiveState := by
  unfold rampStep; split_ifs <;> rfl
@[simp] theorem rampStep_params (s : State) : (rampStep s).params = s.params := by
  unfold rampStep; split_ifs <;> rfl
@[simp] theorem rampStep_pending (s : State) : (rampStep s).pending = s.pending := by
  unfold rampStep; split_ifs <;> rfl
@[simp] theorem rampStep_out (s : State) : (rampStep s).out = s.out := by
  unfold rampStep; split_ifs <;> rfl

/-! ### CLEAR_CURRENT_BLOCK: only the buffer and the cursor change -/

@[simp] theorem clearCurrentBlock_prevMask (s : State) : (clearCurrentBlock s).prevMask = s.prevMask := by
  unfold clearCurrentBlock; split_ifs <;> rfl
@[simp] theorem clearCurrentBlock_hold (s : State) : (clearCurrentBlock s).hold = s.hold := by
  unfold clearCurrentBlock; split_ifs <;> rfl
@[simp] theorem clearCurrentBlock_state (s : State) : (clearCurrentBlock s).state = s.state := by
  unfold clearCurrentBlock; split_ifs <;> rfl
@[simp] theorem clearCurrentBlock_lastActiveState (s : State) : (clearCurrentBlock s).lastActiveState = s.lastActiveState := by
  unfold clearCurrentBlock; split_ifs <;> rfl
@[simp] theorem clearCurrentBlock_dutyCycle (s : State) : (clearCurrentBlock s).dutyCycle = s.dutyCycle := by
  unfold clearCurrentBlock; split_ifs <;> rfl
@[simp] theorem clearCurrentBlock_rampUp (s : State) : (clearCurrentBlock s).rampUp = s.rampUp := by
  unfold clearCurrentBlock; split_ifs <;> rfl
@[simp] theorem clearCurrentBlock_params (s : State) : (clearCurrentBlock s).params = s.params := by
  unfold clearCurrentBlock; split_ifs <;> rfl
@[simp] theorem clearCurrentBlock_pending (s : State) : (clearCurrentBlock s).pending = s.pending := by
  unfold clearCurrentBlock; split_ifs <;> rfl
@[simp] theorem clearCurrentBlock_out (s : State) : (clearCurrentBlock s).out = s.out := by
  unfold clearCurrentBlock; split_ifs <;> rfl

/-! ### The modular difference (R113) -/

theorem subMod_lt (w a b : Nat) : subMod w a b < 2 ^ w := Nat.mod_lt _ (Nat.two_pow_pos w)

/-- Without a wrap between them the difference is the plain one. -/
theorem subMod_of_le {w a b : Nat} (ha : a < 2 ^ w) (h : b ≤ a) : subMod w a b = a - b := by
  have hb : b < 2 ^ w := Nat.lt_of_le_of_lt h ha
  unfold subMod
  rw [Nat.mod_eq_of_lt hb, show a + (2 ^ w - b) = (a - b) + 2 ^ w by omega, Nat.add_mod_right,
    Nat.mod_eq_of_lt (by omega)]

/-- With one wrap between them `2 ^ w` is added. -/
theorem subMod_of_lt {w a b : Nat} (hb : b < 2 ^ w) (h : a < b) : subMod w a b = 2 ^ w - (b - a) := by
  unfold subMod
  rw [Nat.mod_eq_of_lt hb, Nat.mod_eq_of_lt (by omega)]
  omega

end Sys2Proof.Machine
end

