-- ==== Sys2Proof/Laws/Decode.lean ====
section
/-! SUPPORT. The decoder on the words the block forms: it never rejects one, and it chooses by the state, the fire bit
and the lowest edge that has an action (R84, R85). -/

namespace Sys2Proof.Machine

/-- The operation of a tick, by the priority of R85. -/
def selected (st : FsmState) (fire : Bool) (e : Mask) : Instr :=
  match st with
  | .P =>
    if fire then .holdFireP e
    else if e.getLsbD 0 then .pPush0 e else if e.getLsbD 1 then .pPush1 e
    else if e.getLsbD 2 then .pClrblk e else if e.getLsbD 3 then .pAdv else .pIdle
  | .S =>
    if fire then .holdFireS e
    else if e.getLsbD 0 then .sPush0 e else if e.getLsbD 1 then .sPush1 e
    else if e.getLsbD 2 then .sClrall e else if e.getLsbD 3 then .sAdv else .sIdle
  | .F =>
    if fire then .holdFireF e
    else if e.getLsbD 2 then .fClrall e else if e.getLsbD 3 then .fPack e else .fIdle e
  | .SB =>
    if e.getLsbD 0 then .sbWake0 e else if e.getLsbD 1 then .sbWake1 e
    else if e.getLsbD 2 then .sbWake2 e else if e.getLsbD 3 then .sbWake3 else .sbRamp

/-- A selector word the block forms decodes, and to the operation R85 chooses. -/
theorem decode_mkSel (st : FsmState) (fire : Bool) (e : Mask) :
    decode (.tick (mkSel st fire e)) = .ok (selected st fire e) := by
  cases st <;> cases fire <;> revert e <;> decide

/-- No selector word selects RESET (R83). -/
theorem selected_ne_reset (st : FsmState) (fire : Bool) (e : Mask) (b : Bool) :
    selected st fire e ≠ .reset b := by
  cases st <;> simp only [selected] <;> split_ifs <;> simp

/-- Without `fire` no HOLD_FIRE is selected (R84). -/
theorem selected_ne_holdFire (st : FsmState) (e e' : Mask) :
    selected st false e ≠ .holdFireP e' ∧ selected st false e ≠ .holdFireS e' ∧
      selected st false e ≠ .holdFireF e' := by
  cases st <;> simp only [selected] <;> split_ifs <;> simp_all

/-- The control words that select RESET and NOTICK decode. -/
theorem decode_ctrl_reset (t : Bool) : decode (.ctrl (0b1#1 ++ BitVec.ofBool t)) = .ok (.reset t) := by
  cases t <;> decide

theorem decode_ctrl_notick : decode (.ctrl 0b00#2) = .ok .notick := by decide

end Sys2Proof.Machine
end

