-- ==== Sys2Proof/Laws/Exec.lean ====
section
/-! SUPPORT. What each operation can do: if `exec` answers a next state, that state is one of these. -/

namespace Sys2Proof.Machine

/-- The state after a successful push at the start of an operation (R120). -/
def pushed (b : Bool) (s : State) : State :=
  { beginOp s with
    buf := s.buf.write s.inputCount (Entry.ofBit b)
    inputCount := s.inputCount + 1 }

@[simp] theorem pushed_prevMask (b : Bool) (s : State) : (pushed b s).prevMask = s.prevMask := rfl
@[simp] theorem pushed_hold (b : Bool) (s : State) : (pushed b s).hold = s.hold := rfl
@[simp] theorem pushed_state (b : Bool) (s : State) : (pushed b s).state = s.state := rfl
@[simp] theorem pushed_lastActiveState (b : Bool) (s : State) : (pushed b s).lastActiveState = s.lastActiveState := rfl
@[simp] theorem pushed_dutyCycle (b : Bool) (s : State) : (pushed b s).dutyCycle = s.dutyCycle := rfl
@[simp] theorem pushed_rampUp (b : Bool) (s : State) : (pushed b s).rampUp = s.rampUp := rfl
@[simp] theorem pushed_params (b : Bool) (s : State) : (pushed b s).params = s.params := rfl
@[simp] theorem pushed_pending (b : Bool) (s : State) : (pushed b s).pending = s.pending := rfl
@[simp] theorem pushed_out (b : Bool) (s : State) : (pushed b s).out = Output.idle := rfl
@[simp] theorem pushed_inputCount (b : Bool) (s : State) : (pushed b s).inputCount = s.inputCount + 1 := rfl
@[simp] theorem pushed_buf (b : Bool) (s : State) :
    (pushed b s).buf = s.buf.write s.inputCount (Entry.ofBit b) := rfl

/-- PUSH below CAPACITY, at the start of an operation. -/
theorem push_beginOp (b : Bool) {s : State} (h : s.inputCount < s.params.capacity) :
    push b (beginOp s) = .ok (true, pushed b s) :=
  push_of_lt b (s := beginOp s) h

/-- The next states of an operation. -/
def Effect (i : Instr) (s t : State) : Prop :=
  match i with
  | .holdFireP _ => t = enterStandby .P (beginOp s)
  | .holdFireS _ => t = enterStandby .S (beginOp s)
  | .holdFireF _ => t = enterStandby .F (beginOp s)
  | .pIdle => t = beginOp s
  | .sIdle => t = beginOp s
  | .fIdle _ => t = beginOp s
  | .notick => t = beginOp s
  | .pPush0 _ =>
    (s.inputCount = s.params.capacity ∧ t = beginOp s) ∨
    (s.inputCount < s.params.capacity ∧ t = emitFlash false (pushed false s))
  | .pPush1 _ =>
    (s.inputCount = s.params.capacity ∧ t = beginOp s) ∨
    (s.inputCount < s.params.capacity ∧ t = emitFlash true (pushed true s))
  | .sPush0 _ =>
    (s.inputCount = s.params.capacity ∧ t = beginOp s) ∨
    (s.inputCount < s.params.capacity ∧ t = goTo .P (emitFlash false (pushed false s)))
  | .sPush1 _ =>
    (s.inputCount = s.params.capacity ∧ t = beginOp s) ∨
    (s.inputCount < s.params.capacity ∧ t = goTo .P (emitFlash true (pushed true s)))
  | .pClrblk _ => t = clearCurrentBlock (beginOp s)
  | .pAdv => t = goTo .S (beginOp s)
  | .sAdv => t = goTo .F (beginOp s)
  | .sClrall _ => t = goTo .P (clearAll (beginOp s))
  | .fClrall _ => t = goTo .P (clearAll (beginOp s))
  | .fPack _ =>
    (s.inputCount % 8 ≠ 0 ∧ t = recoverToPrimary .misaligned (beginOp s)) ∨
    (s.inputCount % 8 = 0 ∧ s.inputCount ≤ s.params.capacity ∧ holeBelowCursor s = true ∧
      t = recoverToPrimary .invariantViolated (beginOp s)) ∨
    (s.inputCount % 8 = 0 ∧ s.inputCount ≤ s.params.capacity ∧ holeBelowCursor s = false ∧
      t = emitResult ((List.range (s.inputCount / 8)).map (packByte s.buf)) (beginOp s))
  | .sbRamp => t = emitInd (.duty (rampStep (beginOp s)).dutyCycle) (rampStep (beginOp s))
  | .sbWake0 _ => t = leaveStandby (beginOp s)
  | .sbWake1 _ => t = leaveStandby (beginOp s)
  | .sbWake2 _ => t = leaveStandby (beginOp s)
  | .sbWake3 => t = leaveStandby (beginOp s)
  | .reset _ => t = goTo .P (resetElements (beginOp s))

theorem pushInPrimary_next {b : Bool} {s t : State} (h : pushInPrimary b s = .next t) :
    (s.inputCount = s.params.capacity ∧ t = beginOp s) ∨
    (s.inputCount < s.params.capacity ∧ t = emitFlash b (pushed b s)) := by
  unfold pushInPrimary at h
  split at h
  · cases h
  · next hp =>
    rcases push_ok hp with ⟨_, h1, _⟩ | ⟨hlt, _, rfl⟩
    · cases h1
    · exact .inr ⟨hlt, by cases h; rfl⟩
  · next hp =>
    rcases push_ok hp with ⟨he, _, rfl⟩ | ⟨_, h1, _⟩
    · exact .inl ⟨he, by cases h; rfl⟩
    · cases h1

theorem pushInSecondary_next {b : Bool} {s t : State} (h : pushInSecondary b s = .next t) :
    (s.inputCount = s.params.capacity ∧ t = beginOp s) ∨
    (s.inputCount < s.params.capacity ∧ t = goTo .P (emitFlash b (pushed b s))) := by
  unfold pushInSecondary at h
  split at h
  · cases h
  · next hp =>
    rcases push_ok hp with ⟨_, h1, _⟩ | ⟨hlt, _, rfl⟩
    · cases h1
    · exact .inr ⟨hlt, by cases h; rfl⟩
  · next hp =>
    rcases push_ok hp with ⟨he, _, rfl⟩ | ⟨_, h1, _⟩
    · exact .inl ⟨he, by cases h; rfl⟩
    · cases h1

theorem execFPack_next {e : Mask} {s t : State} (h : execFPack e s = .next t) :
    Effect (.fPack e) s t := by
  have hp := pack_cases (beginOp s)
  unfold execFPack at h
  rcases hp with ⟨h8, hp⟩ | ⟨_, _, hp⟩ | ⟨h8, hc, hh, hp⟩ | ⟨h8, hc, hh, hp⟩
  · rw [hp] at h; cases h; exact .inl ⟨h8, rfl⟩
  · rw [hp] at h; cases h
  · rw [hp] at h; cases h; exact .inr (.inl ⟨h8, hc, hh, rfl⟩)
  · rw [hp] at h; cases h; exact .inr (.inr ⟨h8, hc, hh, rfl⟩)

/-- Everything an operation can do. -/
theorem exec_next {i : Instr} {s t : State} (h : exec i s = .next t) : Effect i s t := by
  cases i
  case pPush0 | pPush1 => exact pushInPrimary_next h
  case sPush0 | sPush1 => exact pushInSecondary_next h
  case fPack => exact execFPack_next h
  all_goals cases h; rfl

/-- What an operation leaves of the model's own inputs: the parameters and the pins to come. -/
theorem exec_keeps_model {i : Instr} {s t : State} (h : exec i s = .next t) :
    t.params = s.params ∧ t.pending = s.pending := by
  have he := exec_next h
  cases i
  case pPush0 | pPush1 | sPush0 | sPush1 =>
    rcases he with ⟨_, rfl⟩ | ⟨_, rfl⟩ <;> simp
  case fPack => rcases he with ⟨_, rfl⟩ | ⟨_, _, _, rfl⟩ | ⟨_, _, _, rfl⟩ <;> simp
  all_goals obtain rfl := he; simp

/-- No operation but RESET writes `prev_mask` or `hold` (R36). -/
theorem exec_keeps_sampling {i : Instr} {s t : State} (h : exec i s = .next t) (hi : ∀ b, i ≠ .reset b) :
    t.prevMask = s.prevMask ∧ t.hold = s.hold := by
  have he := exec_next h
  cases i
  case reset b => exact absurd rfl (hi b)
  case pPush0 | pPush1 | sPush0 | sPush1 =>
    rcases he with ⟨_, rfl⟩ | ⟨_, rfl⟩ <;> simp
  case fPack => rcases he with ⟨_, rfl⟩ | ⟨_, _, _, rfl⟩ | ⟨_, _, _, rfl⟩ <;> simp
  all_goals obtain rfl := he; simp

/-- F_PACK, by what PACK answers on the state itself (R158). -/
theorem execFPack_eq (e : Mask) (s : State) :
    execFPack e s = match pack s with
      | .error r => .fault r
      | .ok .misaligned => .next (recoverToPrimary .misaligned (beginOp s))
      | .ok .invariantViolated => .next (recoverToPrimary .invariantViolated (beginOp s))
      | .ok (.bytes bs) => .next (emitResult bs (beginOp s)) := by
  have h := pack_congr (s := beginOp s) (t := s) rfl rfl rfl
  unfold execFPack
  generalize pack (beginOp s) = x at h ⊢
  subst h
  rcases pack s with _ | (_ | _ | _) <;> rfl

end Sys2Proof.Machine
end

