-- ==== Sys2Proof/Laws/Fetch.lean ====
section
/-! SUPPORT. What a clock edge's pins make of the state before the operation runs (R71, R140). -/

namespace Sys2Proof.Machine

theorem takePins_cons {s : State} {p : Pins} {rest : List Pins} (h : s.pending = p :: rest) :
    takePins s = (p, { s with pending := rest }) := by
  simp [takePins, h]

theorem takePins_nil {s : State} (h : s.pending = []) : takePins s = (Pins.idle, s) := by
  simp [takePins, h]

/-- Taking the pins changes the list of pins to come and nothing else. -/
theorem takePins_snd (s : State) : (takePins s).2 = { s with pending := s.pending.tail } := by
  obtain ⟨_, _, _, _, _, _, _, _, _, pending, _⟩ := s
  cases pending <;> rfl

theorem fetch_reset {p : Pins} (s : State) (h : p.rst = true) :
    fetch p s = (.ctrl (0b1#1 ++ BitVec.ofBool p.tick), s) := by
  cases ht : p.tick <;> simp [fetch, mkCtrl, h, ht]

theorem fetch_notick {p : Pins} (s : State) (hr : p.rst = false) (ht : p.tick = false) :
    fetch p s = (.ctrl 0b00#2, s) := by
  simp [fetch, mkCtrl, hr, ht]

theorem fetch_tick {p : Pins} (s : State) (hr : p.rst = false) (ht : p.tick = true) :
    fetch p s = (.tick (sample p s).1, (sample p s).2) := by
  simp [fetch, mkCtrl, hr, ht]

/-- A failed read forms the word of no edge and changes nothing (R73). -/
theorem sample_failed {p : Pins} (s : State) (h : p.sampleOk = false) :
    sample p s = (mkSel s.state false 0b0000#4, s) := by
  simp [sample, h]

/-- A valid sample in SB: EDGE alone runs (R112, R140). -/
theorem sample_standby {p : Pins} {s : State} (h : p.sampleOk = true) (hst : s.state = .SB) :
    sample p s = (mkSel .SB false (p.btn &&& ~~~s.prevMask), { s with prevMask := p.btn }) := by
  simp [sample, h, hst, edge]

/-- A valid sample outside SB: HOLD_EVAL, then EDGE (R112, R140). -/
theorem sample_active {p : Pins} {s : State} (h : p.sampleOk = true) (hst : s.state ≠ .SB) :
    sample p s =
      (mkSel s.state (holdFires p.btn (sampleNow s.params p) s) (p.btn &&& ~~~s.prevMask),
        { s with prevMask := p.btn, hold := holdNext p.btn (sampleNow s.params p) s }) := by
  simp [sample, h, hst, edge, holdEval]

end Sys2Proof.Machine
end

