-- ==== Sys2Proof/Laws/PerInstr.lean ====
section
/-! SUPPORT. A family of facts about the operations as syntax, one lemma per constructor: the word of a well-formed
operation lies in the operation's own row of the opcode map. -/

namespace Sys2Proof.Laws

/-- The match and mask columns of an operation's row (R84), or none for format CTRL. -/
def rowOf : Instr → Option (Sel × Sel)
  | .holdFireP _ => some (0x10#7, 0x70#7)
  | .holdFireS _ => some (0x30#7, 0x70#7)
  | .holdFireF _ => some (0x50#7, 0x70#7)
  | .pIdle => some (0x00#7, 0x7F#7)
  | .pPush0 _ => some (0x01#7, 0x71#7)
  | .pPush1 _ => some (0x02#7, 0x73#7)
  | .pClrblk _ => some (0x04#7, 0x77#7)
  | .pAdv => some (0x08#7, 0x7F#7)
  | .sIdle => some (0x20#7, 0x7F#7)
  | .sPush0 _ => some (0x21#7, 0x71#7)
  | .sPush1 _ => some (0x22#7, 0x73#7)
  | .sClrall _ => some (0x24#7, 0x77#7)
  | .sAdv => some (0x28#7, 0x7F#7)
  | .fIdle _ => some (0x40#7, 0x7C#7)
  | .fClrall _ => some (0x44#7, 0x74#7)
  | .fPack _ => some (0x48#7, 0x7C#7)
  | .sbRamp => some (0x60#7, 0x7F#7)
  | .sbWake0 _ => some (0x61#7, 0x71#7)
  | .sbWake1 _ => some (0x62#7, 0x73#7)
  | .sbWake2 _ => some (0x64#7, 0x77#7)
  | .sbWake3 => some (0x68#7, 0x7F#7)
  | .reset _ => none
  | .notick => none

/-- A word lies in an operation's row: under the row's mask it has the row's value; a control word has `rst`
set for RESET and is `00` for NOTICK (R83, R84). -/
def inRow (i : Instr) (w : FetchWord) : Bool :=
  match w, rowOf i with
  | .tick sel, some r => sel &&& r.2 == r.1
  | .ctrl c, none => if i = .notick then c == 0b00#2 else c.getLsbD 1
  | .tick _, none => false
  | .ctrl _, some _ => false

/-- A well-formed operation's word lies in the operation's row. -/
def EncodeInRow.Statement (i : Instr) : Prop := i.wellFormed = true → inRow i (encode i) = true

theorem EncodeInRow.holdFireP : ∀ e, EncodeInRow.Statement (.holdFireP e) := by unfold EncodeInRow.Statement; decide
theorem EncodeInRow.holdFireS : ∀ e, EncodeInRow.Statement (.holdFireS e) := by unfold EncodeInRow.Statement; decide
theorem EncodeInRow.holdFireF : ∀ e, EncodeInRow.Statement (.holdFireF e) := by unfold EncodeInRow.Statement; decide
theorem EncodeInRow.pIdle : EncodeInRow.Statement .pIdle := by unfold EncodeInRow.Statement; decide
theorem EncodeInRow.pPush0 : ∀ e, EncodeInRow.Statement (.pPush0 e) := by unfold EncodeInRow.Statement; decide
theorem EncodeInRow.pPush1 : ∀ e, EncodeInRow.Statement (.pPush1 e) := by unfold EncodeInRow.Statement; decide
theorem EncodeInRow.pClrblk : ∀ e, EncodeInRow.Statement (.pClrblk e) := by unfold EncodeInRow.Statement; decide
theorem EncodeInRow.pAdv : EncodeInRow.Statement .pAdv := by unfold EncodeInRow.Statement; decide
theorem EncodeInRow.sIdle : EncodeInRow.Statement .sIdle := by unfold EncodeInRow.Statement; decide
theorem EncodeInRow.sPush0 : ∀ e, EncodeInRow.Statement (.sPush0 e) := by unfold EncodeInRow.Statement; decide
theorem EncodeInRow.sPush1 : ∀ e, EncodeInRow.Statement (.sPush1 e) := by unfold EncodeInRow.Statement; decide
theorem EncodeInRow.sClrall : ∀ e, EncodeInRow.Statement (.sClrall e) := by unfold EncodeInRow.Statement; decide
theorem EncodeInRow.sAdv : EncodeInRow.Statement .sAdv := by unfold EncodeInRow.Statement; decide
theorem EncodeInRow.fIdle : ∀ e, EncodeInRow.Statement (.fIdle e) := by unfold EncodeInRow.Statement; decide
theorem EncodeInRow.fClrall : ∀ e, EncodeInRow.Statement (.fClrall e) := by unfold EncodeInRow.Statement; decide
theorem EncodeInRow.fPack : ∀ e, EncodeInRow.Statement (.fPack e) := by unfold EncodeInRow.Statement; decide
theorem EncodeInRow.sbRamp : EncodeInRow.Statement .sbRamp := by unfold EncodeInRow.Statement; decide
theorem EncodeInRow.sbWake0 : ∀ e, EncodeInRow.Statement (.sbWake0 e) := by unfold EncodeInRow.Statement; decide
theorem EncodeInRow.sbWake1 : ∀ e, EncodeInRow.Statement (.sbWake1 e) := by unfold EncodeInRow.Statement; decide
theorem EncodeInRow.sbWake2 : ∀ e, EncodeInRow.Statement (.sbWake2 e) := by unfold EncodeInRow.Statement; decide
theorem EncodeInRow.sbWake3 : EncodeInRow.Statement .sbWake3 := by unfold EncodeInRow.Statement; decide
theorem EncodeInRow.reset : ∀ t, EncodeInRow.Statement (.reset t) := by unfold EncodeInRow.Statement; decide
theorem EncodeInRow.notick : EncodeInRow.Statement .notick := by unfold EncodeInRow.Statement; decide

end Sys2Proof.Laws
end

