-- ==== Sys2Proof/Laws/Step.lean ====
section
/-! SUPPORT. What a step can be: the operation its pins select, on the state its pins make (R71, R140). -/

namespace Sys2Proof.Machine

theorem nextPins_cons {s : State} {p : Pins} {rest : List Pins} (h : s.pending = p :: rest) :
    nextPins s = p := by
  simp [nextPins, takePins_cons h]

/-- The state after HOLD_EVAL and EDGE on the pins of the next edge, those pins taken (R140). -/
def sampled (s : State) : State :=
  (fetch (nextPins s) { s with pending := s.pending.tail }).2

/-- A step is `exec` of the word's operation whenever the word decodes. -/
theorem step_of_fetch {s : State} {w : FetchWord} {s' : State} {i : Instr}
    (hf : fetch (nextPins s) { s with pending := s.pending.tail } = (w, s')) (hd : decode w = .ok i) :
    step s = exec i s' := by
  have ht : (takePins s).1 = nextPins s := rfl
  simp [step, takePins_snd, ht, hf, hd]

/-- Everything a step can be, by the pins of its edge. -/
theorem step_cases (s : State) :
    ((nextPins s).rst = true ∧
      step s = exec (.reset (nextPins s).tick) { s with pending := s.pending.tail }) ∨
    ((nextPins s).rst = false ∧ (nextPins s).tick = false ∧
      step s = exec .notick { s with pending := s.pending.tail }) ∨
    ((nextPins s).failedTick ∧
      step s = exec (selected s.state false 0b0000#4) { s with pending := s.pending.tail }) ∨
    ((nextPins s).validTick ∧ s.state = .SB ∧
      step s = exec (selected .SB false ((nextPins s).btn &&& ~~~s.prevMask))
        { s with pending := s.pending.tail, prevMask := (nextPins s).btn }) ∨
    ((nextPins s).validTick ∧ s.state ≠ .SB ∧
      step s =
        exec (selected s.state (holdFires (nextPins s).btn (sampleNow s.params (nextPins s)) s)
            ((nextPins s).btn &&& ~~~s.prevMask))
          { s with
            pending := s.pending.tail
            prevMask := (nextPins s).btn
            hold := holdNext (nextPins s).btn (sampleNow s.params (nextPins s)) s }) := by
  cases hr : (nextPins s).rst
  · cases ht : (nextPins s).tick
    · exact .inr (.inl ⟨rfl, rfl, step_of_fetch (fetch_notick _ hr ht) decode_ctrl_notick⟩)
    · have hf := fetch_tick { s with pending := s.pending.tail } hr ht
      cases ho : (nextPins s).sampleOk
      · rw [sample_failed _ ho] at hf
        exact .inr (.inr (.inl ⟨⟨hr, ht, ho⟩, step_of_fetch hf (decode_mkSel _ _ _)⟩))
      · by_cases hst : s.state = .SB
        · rw [sample_standby (s := { s with pending := s.pending.tail }) ho hst] at hf
          exact .inr (.inr (.inr (.inl ⟨⟨hr, ht, ho⟩, hst, step_of_fetch hf (decode_mkSel _ _ _)⟩)))
        · rw [sample_active (s := { s with pending := s.pending.tail }) ho hst] at hf
          exact .inr (.inr (.inr (.inr ⟨⟨hr, ht, ho⟩, hst, step_of_fetch hf (decode_mkSel _ _ _)⟩)))
  · exact .inl ⟨rfl, step_of_fetch (fetch_reset _ hr) (decode_ctrl_reset _)⟩

@[simp] theorem run_zero (s : State) : run 0 s = .next s := rfl

/-- A run is its first step and then the rest. -/
theorem run_succ {s t : State} (k : Nat) (h : step s = .next t) : run (k + 1) s = run k t := by
  have h' : Sys2Proof.core.step s = .next t := h
  simp only [run, Host.Core.run, h']
  rfl

end Sys2Proof.Machine
end

