-- ==== Sys2Proof/Tests/Slice0.lean ====
section
/-! SUPPORT. Tests whose expected values are the spec's own (the file of test vectors, the encoding columns), and for
every obligation with hypotheses a concrete case that meets all of them (`witness_<Name>`). -/

namespace Sys2Proof.Tests

open Sys2Proof.Machine

/-- The next state, if there is one. -/
def after : Result → Option State
  | .next t => some t
  | _ => none

/-- The reset state with `cap` entries and the chord and clock width of the spec's examples. -/
def small (cap : Nat) : State :=
  State.resetWith { capacity := cap, chordMask := 0b0011#4, timeW := 32 }

/-- `s` with the given pin samples listed. -/
def State.fed (s : State) (ps : List Pins) : State := { s with pending := ps }

/-- The buffer that holds the given bits from index 0 on. -/
def bufOf (bits : List Bool) : Memory := (List.range bits.length).zip bits

/-- `n` entries, all 1. -/
def ones (n : Nat) : Memory := bufOf (List.replicate n true)

/-- The bits 1,0,1,1,0,0,1,0 of 0xB2. -/
def bitsB2 : List Bool := [true, false, true, true, false, false, true, false]

/-- What the trace tables list of a state after a tick, with the tick's output record. -/
structure Seen where
  state : FsmState
  inputCount : Nat
  prevMask : Mask
  hold : Option Nat
  last : FsmState
  duty : Nat
  rampUp : Bool
  out : Output
  deriving DecidableEq, Repr

/-- What the trace tables show of a state. -/
def seen (s : State) : Seen :=
  ⟨s.state, s.inputCount, s.prevMask, s.hold, s.lastActiveState, s.dutyCycle.toNat, s.rampUp, s.out⟩

/-- One valid tick from a state. -/
def tickFrom (s : State) (btn : Mask) (now : Nat) : Option Seen :=
  (after (step (State.fed s [tickLine btn now]))).map seen

/-! ### WellFormed refuses an ill-formed EdgeMask, once for each check -/

theorem test_illformed_pPush0 : (Instr.pPush0 0b0110#4).wellFormed = false := by decide
theorem test_illformed_pPush1 : (Instr.pPush1 0b0011#4).wellFormed = false := by decide
theorem test_illformed_pClrblk : (Instr.pClrblk 0b0110#4).wellFormed = false := by decide
theorem test_illformed_sPush0 : (Instr.sPush0 0b1000#4).wellFormed = false := by decide
theorem test_illformed_sPush1 : (Instr.sPush1 0b0001#4).wellFormed = false := by decide
theorem test_illformed_sClrall : (Instr.sClrall 0b0101#4).wellFormed = false := by decide
theorem test_illformed_fIdle : (Instr.fIdle 0b0100#4).wellFormed = false := by decide
theorem test_illformed_fClrall : (Instr.fClrall 0b1000#4).wellFormed = false := by decide
theorem test_illformed_fPack : (Instr.fPack 0b1100#4).wellFormed = false := by decide
theorem test_illformed_sbWake0 : (Instr.sbWake0 0b0010#4).wellFormed = false := by decide
theorem test_illformed_sbWake1 : (Instr.sbWake1 0b0011#4).wellFormed = false := by decide
theorem test_illformed_sbWake2 : (Instr.sbWake2 0b0110#4).wellFormed = false := by decide

/-! ### Every constructor's decoding, on a word written from the `st f eeee` columns of R84 and from R83 -/

theorem test_decode_holdFireP : decodeTableWord 7 0b0011010 = some (.holdFireP 0b1010#4) := by decide
theorem test_decode_holdFireS : decodeTableWord 7 0b0110001 = some (.holdFireS 0b0001#4) := by decide
theorem test_decode_holdFireF : decodeTableWord 7 0b1010111 = some (.holdFireF 0b0111#4) := by decide
theorem test_decode_pIdle : decodeTableWord 7 0b0000000 = some .pIdle := by decide
theorem test_decode_pPush0 : decodeTableWord 7 0b0001101 = some (.pPush0 0b1101#4) := by decide
theorem test_decode_pPush1 : decodeTableWord 7 0b0000110 = some (.pPush1 0b0110#4) := by decide
theorem test_decode_pClrblk : decodeTableWord 7 0b0001100 = some (.pClrblk 0b1100#4) := by decide
theorem test_decode_pAdv : decodeTableWord 7 0b0001000 = some .pAdv := by decide
theorem test_decode_sIdle : decodeTableWord 7 0b0100000 = some .sIdle := by decide
theorem test_decode_sPush0 : decodeTableWord 7 0b0100011 = some (.sPush0 0b0011#4) := by decide
theorem test_decode_sPush1 : decodeTableWord 7 0b0101010 = some (.sPush1 0b1010#4) := by decide
theorem test_decode_sClrall : decodeTableWord 7 0b0100100 = some (.sClrall 0b0100#4) := by decide
theorem test_decode_sAdv : decodeTableWord 7 0b0101000 = some .sAdv := by decide
theorem test_decode_fIdle : decodeTableWord 7 0b1000011 = some (.fIdle 0b0011#4) := by decide
theorem test_decode_fClrall : decodeTableWord 7 0b1001101 = some (.fClrall 0b1101#4) := by decide
theorem test_decode_fPack : decodeTableWord 7 0b1001001 = some (.fPack 0b1001#4) := by decide
theorem test_decode_sbRamp : decodeTableWord 7 0b1100000 = some .sbRamp := by decide
theorem test_decode_sbWake0 : decodeTableWord 7 0b1101111 = some (.sbWake0 0b1111#4) := by decide
theorem test_decode_sbWake1 : decodeTableWord 7 0b1100110 = some (.sbWake1 0b0110#4) := by decide
theorem test_decode_sbWake2 : decodeTableWord 7 0b1101100 = some (.sbWake2 0b1100#4) := by decide
theorem test_decode_sbWake3 : decodeTableWord 7 0b1101000 = some .sbWake3 := by decide
theorem test_decode_reset : decodeTableWord 2 0b10 = some (.reset false) := by decide
theorem test_decode_notick : decodeTableWord 2 0b00 = some .notick := by decide

/-- The control word `01` is no operation: it says to decode the selector word (R83). -/
theorem test_decode_ctrl_tick : decode (.ctrl 0b01#2) = .error .ctrlSelectsTick := by decide

/-- A word that is never formed reads as the word with `f = 0` (R86 (a)). -/
theorem test_decode_never_formed : decode (.tick 0b1110100#7) = .ok (.sbWake2 0b0100#4) := by decide

/-- From reset with a word placed, the next step is the word's operation (every selector word, every control word). -/
theorem test_withFetchWord :
    (∀ w : BitVec 7, (after (step (State.reset.withFetchWord 7 w.toNat))).isSome = true) ∧
    (∀ w : BitVec 2, (after (step (State.reset.withFetchWord 2 w.toNat))).isSome = true) := by decide

/-! ### One step each: rows of table B4, the wrap of H11 and H12, the clamp of CLEAR_BLOCK -/

/-- Row 2 of B4. -/
theorem test_holdFireS :
    tickFrom { small 512 with state := .S, inputCount := 2, buf := ones 2, prevMask := 0b0011#4, hold := some 1000 }
        0b0011#4 4000 =
      some ⟨.SB, 2, 0b0011#4, none, .S, 0, true,
        { ind := .allOn, flash := 0b00#2, result := none, err := .none }⟩ := by decide

/-- Row 3 of B4. -/
theorem test_holdFireF :
    tickFrom { small 512 with state := .F, inputCount := 8, buf := ones 8, prevMask := 0b0011#4, hold := some 1000 }
        0b0011#4 4000 =
      some ⟨.SB, 8, 0b0011#4, none, .F, 0, true,
        { ind := .allOn, flash := 0b00#2, result := none, err := .none }⟩ := by decide

/-- Row 4 of B4. -/
theorem test_holdFireP :
    tickFrom { small 512 with inputCount := 2, buf := ones 2, prevMask := 0b0011#4, hold := some 1000 }
        0b0111#4 4000 =
      some ⟨.SB, 2, 0b0111#4, none, .P, 0, true,
        { ind := .allOn, flash := 0b00#2, result := none, err := .none }⟩ := by decide

/-- Row 5 of B4. -/
theorem test_pIdle :
    tickFrom { small 512 with inputCount := 3, buf := ones 3, prevMask := 0b0010#4 }
        0b0010#4 50 =
      some ⟨.P, 3, 0b0010#4, none, .P, 0, true,
        Output.idle⟩ := by decide

/-- Row 6 of B4. -/
theorem test_pPush0 :
    tickFrom (small 512)
        0b0001#4 50 =
      some ⟨.P, 1, 0b0001#4, none, .P, 0, true,
        { ind := .none, flash := 0b01#2, result := none, err := .none }⟩ := by decide

/-- Row 7 of B4. -/
theorem test_pPush0_full :
    tickFrom { small 8 with inputCount := 8, buf := ones 8 }
        0b0001#4 50 =
      some ⟨.P, 8, 0b0001#4, none, .P, 0, true,
        Output.idle⟩ := by decide

/-- Row 8 of B4. -/
theorem test_pPush1 :
    tickFrom { small 512 with inputCount := 3, buf := ones 3 }
        0b0010#4 50 =
      some ⟨.P, 4, 0b0010#4, none, .P, 0, true,
        { ind := .none, flash := 0b10#2, result := none, err := .none }⟩ := by decide

/-- Row 9 of B4. -/
theorem test_pClrblk :
    tickFrom { small 512 with inputCount := 13, buf := ones 13 }
        0b0100#4 50 =
      some ⟨.P, 8, 0b0100#4, none, .P, 0, true,
        Output.idle⟩ := by decide

/-- Row 10 of B4. -/
theorem test_pClrblk_empty :
    tickFrom (small 512)
        0b0100#4 50 =
      some ⟨.P, 0, 0b0100#4, none, .P, 0, true,
        Output.idle⟩ := by decide

/-- Row 11 of B4. -/
theorem test_pAdv :
    tickFrom { small 512 with inputCount := 4, buf := ones 4 }
        0b1000#4 50 =
      some ⟨.S, 4, 0b1000#4, none, .P, 0, true,
        { ind := .fast, flash := 0b00#2, result := none, err := .none }⟩ := by decide

/-- Row 12 of B4. -/
theorem test_sIdle :
    tickFrom { small 512 with state := .S, inputCount := 1, buf := ones 1 }
        0b0000#4 50 =
      some ⟨.S, 1, 0b0000#4, none, .P, 0, true,
        Output.idle⟩ := by decide

/-- Row 13 of B4. -/
theorem test_sPush0 :
    tickFrom { small 512 with state := .S, inputCount := 1, buf := ones 1 }
        0b0001#4 50 =
      some ⟨.P, 2, 0b0001#4, none, .P, 0, true,
        { ind := .slow, flash := 0b01#2, result := none, err := .none }⟩ := by decide

/-- Row 14 of B4. -/
theorem test_sPush1 :
    tickFrom { small 512 with state := .S, inputCount := 3, buf := ones 3 }
        0b0010#4 50 =
      some ⟨.P, 4, 0b0010#4, none, .P, 0, true,
        { ind := .slow, flash := 0b10#2, result := none, err := .none }⟩ := by decide

/-- Row 15 of B4. -/
theorem test_sPush1_full :
    tickFrom { small 8 with state := .S, inputCount := 8, buf := ones 8 }
        0b0010#4 50 =
      some ⟨.S, 8, 0b0010#4, none, .P, 0, true,
        Output.idle⟩ := by decide

/-- Row 16 of B4. -/
theorem test_sClrall :
    tickFrom { small 512 with state := .S, inputCount := 11, buf := ones 11 }
        0b0100#4 50 =
      some ⟨.P, 0, 0b0100#4, none, .P, 0, true,
        { ind := .slow, flash := 0b00#2, result := none, err := .none }⟩ := by decide

/-- Row 17 of B4. -/
theorem test_sAdv :
    tickFrom { small 512 with state := .S, inputCount := 8, buf := ones 8 }
        0b1000#4 50 =
      some ⟨.F, 8, 0b1000#4, none, .P, 0, true,
        { ind := .fastest, flash := 0b00#2, result := none, err := .none }⟩ := by decide

/-- Row 19 of B4. -/
theorem test_fIdle :
    tickFrom { small 512 with state := .F, inputCount := 8, buf := ones 8 }
        0b0011#4 50 =
      some ⟨.F, 8, 0b0011#4, some 50, .P, 0, true,
        Output.idle⟩ := by decide

/-- Row 20 of B4. -/
theorem test_fClrall :
    tickFrom { small 512 with state := .F, inputCount := 8, buf := ones 8 }
        0b0100#4 50 =
      some ⟨.P, 0, 0b0100#4, none, .P, 0, true,
        { ind := .slow, flash := 0b00#2, result := none, err := .none }⟩ := by decide

/-- Row 21 of B4. -/
theorem test_fPack :
    tickFrom { small 512 with state := .F, inputCount := 8, buf := bufOf bitsB2 }
        0b1000#4 50 =
      some ⟨.F, 8, 0b1000#4, none, .P, 0, true,
        { ind := .none, flash := 0b00#2, result := some [0xB2#8], err := .none }⟩ := by decide

/-- Row 23 of B4. -/
theorem test_fPack_misaligned :
    tickFrom { small 512 with state := .F, inputCount := 3, buf := ones 3 }
        0b1000#4 50 =
      some ⟨.P, 3, 0b1000#4, none, .P, 0, true,
        { ind := .slow, flash := 0b00#2, result := none, err := .misaligned }⟩ := by decide

/-- Row 25 of B4. -/
theorem test_sbRamp_up :
    tickFrom { small 512 with state := .SB, lastActiveState := .S, dutyCycle := 95#7 }
        0b0000#4 50 =
      some ⟨.SB, 0, 0b0000#4, none, .S, 100, false,
        { ind := .duty 100#7, flash := 0b00#2, result := none, err := .none }⟩ := by decide

/-- Row 26 of B4. -/
theorem test_sbRamp_down :
    tickFrom { small 512 with state := .SB, lastActiveState := .S, dutyCycle := 5#7, rampUp := false }
        0b0000#4 50 =
      some ⟨.SB, 0, 0b0000#4, none, .S, 0, true,
        { ind := .duty 0#7, flash := 0b00#2, result := none, err := .none }⟩ := by decide

/-- Row 28 of B4. -/
theorem test_sbWake0 :
    tickFrom { small 512 with state := .SB, inputCount := 2, buf := ones 2, dutyCycle := 45#7 }
        0b0001#4 50 =
      some ⟨.P, 2, 0b0001#4, none, .P, 0, true,
        { ind := .slow, flash := 0b00#2, result := none, err := .none }⟩ := by decide

/-- Row 29 of B4. -/
theorem test_sbWake1 :
    tickFrom { ({ small 512 with state := .SB, inputCount := 2, buf := ones 2 } : State) with
          lastActiveState := .S
          dutyCycle := 45#7
          rampUp := false }
        0b0010#4 50 =
      some ⟨.S, 2, 0b0010#4, none, .S, 0, false,
        { ind := .fast, flash := 0b00#2, result := none, err := .none }⟩ := by decide

/-- Row 30 of B4. -/
theorem test_sbWake2 :
    tickFrom { small 512 with state := .SB, inputCount := 8, buf := ones 8, lastActiveState := .F, dutyCycle := 45#7 }
        0b0100#4 50 =
      some ⟨.F, 8, 0b0100#4, none, .F, 0, true,
        { ind := .fastest, flash := 0b00#2, result := none, err := .none }⟩ := by decide

/-- Row 31 of B4. -/
theorem test_sbWake3 :
    tickFrom { small 512 with state := .SB, inputCount := 2, buf := ones 2, dutyCycle := 100#7, rampUp := false }
        0b1000#4 50 =
      some ⟨.P, 2, 0b1000#4, none, .P, 0, false,
        { ind := .slow, flash := 0b00#2, result := none, err := .none }⟩ := by decide

/-- RESET from any state is the reset state with IND_SLOW (B4, format CTRL). -/
theorem test_reset :
    after (step (State.fed { small 8 with state := .SB, dutyCycle := 45#7, prevMask := 0b0110#4 } [resetLine])) =
      some (small 8) := by decide

/-- NOTICK reads no input and changes nothing (B4, format CTRL). -/
theorem test_notick :
    after (step (State.fed { small 8 with hold := some 7, prevMask := 0b0011#4 }
        [{ rst := false, tick := false, btn := 0b1111#4, sampleOk := true, nowMs := 9000 }])) =
      some { small 8 with hold := some 7, prevMask := 0b0011#4, out := Output.idle } := by decide

/-- Vectors H11 and H12: the elapsed time across the wrap of a 32-bit clock. -/
theorem test_hold_wrap :
    (holdEval 0b0011#4 1999 { small 8 with hold := some 4294966296 }).1 = false ∧
    (holdEval 0b0011#4 2000 { small 8 with hold := some 4294966296 }).1 = true := by decide

/-- CLEAR_BLOCK(8) with 12 entries, all 1, clears entries 8 to 11 (B3). -/
theorem test_clear_block_clamped :
    (clearBlock 8 { small 12 with buf := ones 12, inputCount := 12 }).buf =
      ones 8 := by decide

/-- Vector K5: two bytes, most significant bit first, and the result port's layout (R78). -/
theorem test_pack_two_bytes :
    pack { small 16 with
        buf := bufOf [false, true, false, false, true, false, false, false,
          false, true, true, false, true, false, false, true]
        inputCount := 16 } = .ok (.bytes [0x48#8, 0x69#8]) ∧
    (portResultBytes { small 16 with out := { Output.idle with result := some [0x48#8, 0x69#8] } }).toNat =
      0x6948 := by decide

/-! ### Witnesses: each obligation's hypotheses met together -/
/-- A push just happened: one entry, an edge to come. -/
def one8 : State := { small 8 with buf := [(0, true)], inputCount := 1 }

/-- Standby from S at duty 95 going up, one bit in the buffer. -/
def ramping : State :=
  { one8 with state := .SB, lastActiveState := .S, dutyCycle := 95#7 }

/-- The chord has been held since 1000. -/
def holding : State := { one8 with prevMask := 0b0011#4, hold := some 1000 }

theorem one8_cursor (s : State) (hb : s.buf = [(0, true)]) (hc : s.inputCount = 1)
    (hp : s.params = (small 8).params) : CursorInv s :=
  ⟨by rw [hc, hp]; decide, by rw [hb, hc]; decide, fun i hi => by
    rw [hc] at hi; rw [hb]; simp only [Memory.read]; rw [if_neg (by omega)]⟩

/-- The invariants do not speak of the pin samples to come. -/
theorem inv_fed {s : State} (h : Inv s) (ps : List Pins) : Inv (State.fed s ps) :=
  ⟨⟨h.cursor.1, h.cursor.2, h.cursor.3⟩,
    ⟨h.mode.1, h.mode.2, h.mode.3, h.mode.4, h.mode.5, h.mode.6, h.mode.7, h.mode.8, h.mode.9⟩, h.memory⟩

theorem ramping_inv : Inv ramping :=
  ⟨one8_cursor _ rfl rfl rfl,
    ⟨by decide, by decide, by decide, by decide, by decide, by decide, by decide, by decide,
      fun t h => by cases h⟩, by decide⟩

theorem holding_inv : Inv holding :=
  ⟨one8_cursor _ rfl rfl rfl,
    ⟨by decide, by decide, by decide, by decide, by decide, by decide, by decide, by decide,
      fun t h => by cases h; decide⟩, by decide⟩

theorem misaligned_inv : Inv { one8 with state := .F } :=
  ⟨one8_cursor _ rfl rfl rfl,
    ⟨by decide, by decide, by decide, by decide, by decide, by decide, by decide, by decide,
      fun t h => by cases h⟩, by decide⟩

theorem witness_DecodeEncodeRoundTrip :
    (Instr.pPush0 0b1111#4).wellFormed = true ∧ (Instr.pPush1 0b1010#4).wellFormed = true ∧
    (Instr.pClrblk 0b1100#4).wellFormed = true ∧ (Instr.fIdle 0b0011#4).wellFormed = true ∧
    (Instr.fClrall 0b0100#4).wellFormed = true ∧ (Instr.fPack 0b1011#4).wellFormed = true := by decide

theorem witness_DecodedOperationEncodesBack :
    decode (.tick 0x7F#7) = .ok (.sbWake0 0b1111#4) ∧ decode (.tick 0x6F#7) = .ok (.sbWake0 0b1111#4) ∧
    decode (.ctrl 0b11#2) = .ok (.reset true) := by decide

theorem witness_SelectorRowsDisjointAndCovering :
    (0x6F#7 : Sel) &&& 0x70#7 ≠ 0x70#7 ∧ (0x70#7 : Sel) &&& 0x70#7 = 0x70#7 ∧
    (0x7F#7 : Sel) &&& 0x70#7 = 0x70#7 := by decide

theorem witness_ControlWordSelects :
    resetLine.rst = true ∧ ((tickLine 0b0001#4 5).rst = false ∧ (tickLine 0b0001#4 5).tick = true) ∧
    (Pins.idle.rst = false ∧ Pins.idle.tick = false) := by decide

theorem witness_StepRunsDecodedOperation :
    decode (fetch (takePins (State.fed one8 [tickLine 0b0110#4 5])).1
        (takePins (State.fed one8 [tickLine 0b0110#4 5])).2).1 = .ok (.pPush1 0b0110#4) := by decide

theorem witness_TickFormsSelectorAndRunsIt :
    ((tickLine 0b0111#4 4000).validTick ∧ holding.state ≠ .SB ∧
      decode (.tick (mkSel holding.state (holdEval 0b0111#4 (sampleNow holding.params (tickLine 0b0111#4 4000))
        holding).1 (edge 0b0111#4 holding).1)) = .ok (.holdFireP 0b0100#4)) ∧
    ((tickLine 0b1000#4 5).validTick ∧ ramping.state = .SB ∧
      decode (.tick (mkSel .SB false (edge 0b1000#4 ramping).1)) = .ok .sbWake3) ∧
    (failedLine.failedTick ∧ decode (.tick (mkSel one8.state false 0b0000#4)) = .ok .pIdle) := by decide

/-- Edges on channels 1 and 3, on channels 2 and 3, and on 0 and 1 only. -/
theorem witness_PriorityChoosesLowestActiveChannel :
    ((1 : Nat) < 4 ∧ (0b1010#4 : Mask).getLsbD 1 = true ∧ ∀ j, j < 1 → (0b1010#4 : Mask).getLsbD j = false) ∧
    ((3 : Nat) < 4 ∧ (0b1000#4 : Mask).getLsbD 3 = true ∧ ∀ j, j < 3 → (0b1000#4 : Mask).getLsbD j = false) ∧
    (0b1100#4 : Mask).getLsbD 2 = true ∧
    ((0b1011#4 : Mask).getLsbD 2 = false ∧ (0b1011#4 : Mask).getLsbD 3 = true) ∧
    ((0b0011#4 : Mask).getLsbD 2 = false ∧ (0b0011#4 : Mask).getLsbD 3 = false) := by decide

theorem witness_NoListedPinsIsNotick : State.reset.pending = [] := by decide

theorem witness_StepCompletesWithinCapacity :
    (small 0).inputCount = (small 0).params.capacity ∧
    { small 8 with inputCount := 8 }.inputCount ≤ { small 8 with inputCount := 8 }.params.capacity := by decide

theorem witness_StepKeepsParameters : ∃ t, step (State.fed one8 [tickLine 0b0001#4 5]) = .next t := ⟨_, rfl⟩

theorem witness_StepKeepsInvariants_ramp :
    ∃ s t : State, Inv s ∧ step s = .next t ∧ t.dutyCycle = 100#7 :=
  ⟨State.fed ramping [tickLine 0b0000#4 5], _, inv_fed ramping_inv _, rfl, rfl⟩

theorem witness_StepKeepsInvariants_fire :
    ∃ s t : State, Inv s ∧ step s = .next t ∧ t.state = .SB ∧ s.state = .P :=
  ⟨State.fed holding [tickLine 0b0011#4 4000], _, inv_fed holding_inv _, rfl, rfl, rfl⟩

theorem witness_AccumulatorKeepsCursorInvariants :
    ∃ s t : State, CursorInv s ∧ push true s = .ok (true, t) ∧ s.inputCount = 1 :=
  ⟨one8, _, one8_cursor _ rfl rfl rfl, rfl, rfl⟩

theorem witness_StepKeepsMemoryForm :
    ∃ t, one8.buf.wf one8.params.capacity ∧ step (State.fed one8 [tickLine 0b0100#4 5]) = .next t :=
  ⟨_, by decide, rfl⟩

theorem witness_RunNeverStops : Inv (State.fed holding [tickLine 0b0011#4 4000, tickLine 0b0111#4 4010]) :=
  inv_fed holding_inv _

theorem witness_ResetWritesEveryElement :
    (State.fed ramping [resetLine]).pending = [resetLine] ∧ resetLine.rst = true := by decide

theorem witness_ResetStateIsExactlyR34 :
    (State.fed ramping [{ resetLine with tick := true }]).pending = [{ resetLine with tick := true }] ∧
    { resetLine with tick := true }.rst = true := by decide

theorem witness_NotickChangesNothing :
    (State.fed one8 [Pins.idle]).pending = [Pins.idle] ∧ Pins.idle.rst = false ∧ Pins.idle.tick = false := by decide

theorem witness_EdgeHasMemoryOfOneTick :
    (∃ t, step (State.fed one8 [tickLine 0b0001#4 5, tickLine 0b0011#4 6]) = .next t) ∧
    (tickLine 0b0011#4 6).validTick ∧ (tickLine 0b0001#4 5).validTick ∧
    (∃ t, step (State.fed one8 [resetLine, tickLine 0b0011#4 6]) = .next t) ∧ resetLine.rst = true ∧
    (∃ t, step (State.fed one8 [failedLine, tickLine 0b0011#4 6]) = .next t) ∧ failedLine.failedTick :=
  ⟨⟨_, rfl⟩, by decide, by decide, ⟨_, rfl⟩, rfl, ⟨_, rfl⟩, by decide⟩

/-- The four cases of R110 at vectors H6, H1, H3 and H4. -/
theorem witness_HoldEvalCases :
    chord holding.params 0b0001#4 = false ∧
    (chord one8.params 0b0011#4 = true ∧ one8.hold = none) ∧
    (chord holding.params 0b0011#4 = true ∧ holding.hold = some 1000 ∧
      subMod holding.params.timeW 3999 1000 < 3000) ∧
    (chord holding.params 0b0011#4 = true ∧ holding.hold = some 1000 ∧
      3000 ≤ subMod holding.params.timeW 4000 1000) := by decide

theorem witness_ElapsedTimeIsModular :
    (4294967295 < 2 ^ 32 ∧ 0 < 2 ^ 32) ∧
    (4294966296 ≤ 4294969296 ∧ 4294969296 - 4294966296 < 2 ^ 32) := by decide

theorem witness_HoldTimerRunsOnlyOutsideStandby :
    (∃ t, step (State.fed holding [Pins.idle]) = .next t ∧ Pins.idle.rst = false ∧ Pins.idle.tick = false) ∧
    (∃ t, step (State.fed holding [failedLine]) = .next t ∧ failedLine.rst = false ∧
      failedLine.sampleOk = false) ∧
    (∃ t, step (State.fed ramping [tickLine 0b0011#4 5]) = .next t ∧ ramping.state = .SB) :=
  ⟨⟨_, rfl, rfl, rfl⟩, ⟨_, rfl, rfl, rfl⟩, ⟨_, rfl, rfl⟩⟩

/-- The gesture at exactly 3000 ms, with a new edge on the same tick (B4 row 4). -/
theorem witness_DueGestureEntersStandby :
    (State.fed holding [tickLine 0b0111#4 4000]).pending = [tickLine 0b0111#4 4000] ∧
    (tickLine 0b0111#4 4000).validTick ∧ holding.state ≠ .SB ∧
    chord holding.params (tickLine 0b0111#4 4000).btn = true ∧ holding.hold = some 1000 ∧
    3000 ≤ subMod holding.params.timeW ((tickLine 0b0111#4 4000).nowMs % 2 ^ holding.params.timeW) 1000 := by decide

theorem witness_StandbyEnteredOnlyByDueGesture :
    ∃ t, holding.state ≠ .SB ∧ step (State.fed holding [tickLine 0b0011#4 4000]) = .next t ∧ t.state = .SB :=
  ⟨_, by decide, rfl, rfl⟩

theorem witness_StateChangesOnlyOnEdgeOrGesture :
    (∃ t, step (State.fed one8 [tickLine 0b1000#4 5]) = .next t ∧
      (nextPins (State.fed one8 [tickLine 0b1000#4 5])).rst = false ∧ t.state ≠ one8.state) ∧
    (∃ t, step (State.fed holding [tickLine 0b0011#4 4000]) = .next t ∧
      (nextPins (State.fed holding [tickLine 0b0011#4 4000])).rst = false ∧ t.state ≠ holding.state) :=
  ⟨⟨_, rfl, rfl, by decide⟩, ⟨_, rfl, rfl, by decide⟩⟩

/-- Onset at 1000, a failed read, a tick at 3999 and one at 4000. -/
theorem witness_HeldChordFiresExactlyAtThreshold :
    one8.state ≠ .SB ∧ one8.hold = none ∧ one8.inputCount ≤ one8.params.capacity ∧
    chord one8.params 0b0011#4 = true ∧ (tickLine 0b0011#4 1000).validTick ∧
    (∀ p ∈ [{ failedLine with nowMs := 2000 }, tickLine 0b0011#4 3999, tickLine 0b0011#4 4000],
      p.anyTick ∧ (p.sampleOk = true → p.btn = 0b0011#4)) ∧
    hostClockMonotone [tickLine 0b0011#4 1000, { failedLine with nowMs := 2000 }, tickLine 0b0011#4 3999,
      tickLine 0b0011#4 4000] ∧
    (∀ p ∈ [tickLine 0b0011#4 1000, { failedLine with nowMs := 2000 }, tickLine 0b0011#4 3999,
      tickLine 0b0011#4 4000], p.nowMs < 2 ^ one8.params.timeW) := by decide

theorem witness_ChordStillHeldRestartsTimer :
    ∃ t, one8.state ≠ .SB ∧ one8.hold = none ∧
      (nextPins (State.fed one8 [tickLine 0b0011#4 5])).validTick ∧
      chord one8.params (nextPins (State.fed one8 [tickLine 0b0011#4 5])).btn = true ∧
      step (State.fed one8 [tickLine 0b0011#4 5]) = .next t :=
  ⟨_, by decide, by decide, by decide, by decide, rfl⟩

/-- The selector words of the clauses on decoding, at the ends of each row's range. -/
theorem witness_row_words :
    ((0x10#7 : Sel) &&& 0x70#7 = 0x10#7 ∧ (0x1F#7 : Sel) &&& 0x70#7 = 0x10#7) ∧
    (0x3F#7 : Sel) &&& 0x70#7 = 0x30#7 ∧ (0x5F#7 : Sel) &&& 0x70#7 = 0x50#7 ∧
    (0x0F#7 : Sel) &&& 0x71#7 = 0x01#7 ∧ (0x0E#7 : Sel) &&& 0x73#7 = 0x02#7 ∧
    (0x0C#7 : Sel) &&& 0x77#7 = 0x04#7 ∧ (0x2F#7 : Sel) &&& 0x71#7 = 0x21#7 ∧
    (0x2E#7 : Sel) &&& 0x73#7 = 0x22#7 ∧ (0x2C#7 : Sel) &&& 0x77#7 = 0x24#7 ∧
    (0x43#7 : Sel) &&& 0x7C#7 = 0x40#7 ∧ (0x4F#7 : Sel) &&& 0x74#7 = 0x44#7 ∧
    (0x4B#7 : Sel) &&& 0x7C#7 = 0x48#7 ∧ (0x6F#7 : Sel) &&& 0x71#7 = 0x61#7 ∧
    (0x6E#7 : Sel) &&& 0x73#7 = 0x62#7 ∧ (0x6C#7 : Sel) &&& 0x77#7 = 0x64#7 := by decide

/-- The three rows of HOLD_FIRE, each an operation of the hypothesis. -/
theorem witness_HoldFireSavesStateAndEntersStandby (e : Mask) :
    ((Instr.holdFireP e = .holdFireP e ∧ FsmState.P = .P) ∨
      (Instr.holdFireP e = .holdFireS e ∧ FsmState.P = .S) ∨
      (Instr.holdFireP e = .holdFireF e ∧ FsmState.P = .F)) ∧
    ((Instr.holdFireF e = .holdFireP e ∧ FsmState.F = .P) ∨
      (Instr.holdFireF e = .holdFireS e ∧ FsmState.F = .S) ∨
      (Instr.holdFireF e = .holdFireF e ∧ FsmState.F = .F)) :=
  ⟨.inl ⟨rfl, rfl⟩, .inr (.inr ⟨rfl, rfl⟩)⟩

/-- Full, and one below full: vectors U6 and U5. -/
theorem witness_PushAppendsAtCursor :
    { small 8 with inputCount := 8 }.inputCount = { small 8 with inputCount := 8 }.params.capacity ∧
    { small 8 with inputCount := 7 }.inputCount < { small 8 with inputCount := 7 }.params.capacity := by decide

/-- A block that runs past a buffer of 12 entries: its last entry, and the first entry past it. -/
theorem witness_ClearBlockClampsToBuffer :
    (8 ≤ 11 ∧ 11 < 8 + 8 ∧ 11 < (small 12).params.capacity) ∧
    ¬ (8 ≤ 12 ∧ 12 < 8 + 8 ∧ 12 < (small 12).params.capacity) ∧ ¬ (8 ≤ 7 ∧ 7 < 8 + 8) := by decide

theorem witness_ClearCurrentBlockRewindsCursor :
    (small 8).inputCount = 0 ∧ 1 ≤ one8.inputCount ∧ 1 ≤ { small 8 with inputCount := 8 }.inputCount := by
  decide

/-- Vectors K3, K11 and K1. -/
theorem witness_PackBytesMostSignificantFirst :
    { small 8 with inputCount := 3 }.inputCount % 8 ≠ 0 ∧
    ({ small 8 with inputCount := 8, buf := (ones 8).erase 2 }.inputCount ≤ 8 ∧
      ∃ i, i < 8 ∧ ((ones 8).erase 2).read i = .unset) ∧
    (∀ i, i < 8 → (bufOf bitsB2).read i ≠ .unset) :=
  ⟨by decide, ⟨by decide, 2, by decide, by decide⟩, by decide⟩

theorem witness_PushThenPackRoundTrip :
    (small 8).inputCount = 0 ∧ bitsB2.length % 8 = 0 ∧ bitsB2.length ≤ (small 8).params.capacity := by decide

theorem witness_PrimaryPushAppendsAndFlashes :
    ((Instr.pPush0 0b1101#4 = .pPush0 0b1101#4 ∧ false = false) ∨
      (Instr.pPush0 0b1101#4 = .pPush1 0b1101#4 ∧ false = true)) ∧
    ((Instr.pPush1 0b1110#4 = .pPush0 0b1110#4 ∧ true = false) ∨
      (Instr.pPush1 0b1110#4 = .pPush1 0b1110#4 ∧ true = true)) ∧
    { small 8 with inputCount := 8 }.inputCount = { small 8 with inputCount := 8 }.params.capacity ∧
    { small 8 with inputCount := 7 }.inputCount < { small 8 with inputCount := 7 }.params.capacity := by decide

theorem witness_PrimaryClearBlockRewinds :
    (small 8).inputCount = 0 ∧ 1 ≤ { small 12 with inputCount := 12 }.inputCount ∧
    (currentBlockStart 12 ≤ 11 ∧ 11 < currentBlockStart 12 + 8 ∧ 11 < (small 12).params.capacity) ∧
    ¬ (currentBlockStart 12 ≤ 7 ∧ 7 < currentBlockStart 12 + 8 ∧ 7 < (small 12).params.capacity) := by decide

theorem witness_SecondaryPushReturnsToPrimary :
    ((Instr.sPush0 0b0001#4 = .sPush0 0b0001#4 ∧ false = false) ∨
      (Instr.sPush0 0b0001#4 = .sPush1 0b0001#4 ∧ false = true)) ∧
    ((Instr.sPush1 0b0010#4 = .sPush0 0b0010#4 ∧ true = false) ∨
      (Instr.sPush1 0b0010#4 = .sPush1 0b0010#4 ∧ true = true)) ∧
    { small 8 with inputCount := 8 }.inputCount = { small 8 with inputCount := 8 }.params.capacity ∧
    { small 8 with inputCount := 0 }.inputCount < { small 8 with inputCount := 0 }.params.capacity := by decide

theorem witness_ClearAllReturnsToPrimary :
    (Instr.sClrall 0b0100#4 = .sClrall 0b0100#4 ∨ Instr.sClrall 0b0100#4 = .fClrall 0b0100#4) ∧
    (Instr.fClrall 0b1111#4 = .sClrall 0b1111#4 ∨ Instr.fClrall 0b1111#4 = .fClrall 0b1111#4) := by decide

/-- A cursor one past a multiple of 8; a hole at the last index of an aligned block; the empty and the whole buffer. -/
theorem witness_FinalizePackReportsOrPresents :
    { small 16 with inputCount := 9 }.inputCount % 8 ≠ 0 ∧
    (∃ i, i < 8 ∧ ((ones 8).erase 7).read i = .unset) ∧ (∀ i, i < 8 → (ones 8).read i ≠ .unset) ∧
    (∀ i, i < (small 8).inputCount → (small 8).buf.read i ≠ .unset) :=
  ⟨by decide, ⟨7, by decide, by decide⟩, by decide, by decide⟩

theorem witness_FinalizePackIsRepeatable :
    ∃ t, exec (.fPack 0b1000#4) { small 8 with state := .F, inputCount := 8, buf := bufOf bitsB2 } = .next t ∧
      { t with state := .SB }.buf = t.buf ∧ { t with state := .SB }.inputCount = t.inputCount ∧
      { t with state := .SB }.params = t.params :=
  ⟨_, rfl, rfl, rfl, rfl⟩

theorem witness_StandbyWakeResumesSavedState :
    ramping.lastActiveState ≠ .SB ∧
    (Instr.sbWake2 0b1100#4 = .sbWake0 0b1100#4 ∨ Instr.sbWake2 0b1100#4 = .sbWake1 0b1100#4 ∨
      Instr.sbWake2 0b1100#4 = .sbWake2 0b1100#4 ∨ Instr.sbWake2 0b1100#4 = .sbWake3) ∧
    (Instr.sbWake3 = .sbWake0 0b1000#4 ∨ Instr.sbWake3 = .sbWake1 0b1000#4 ∨
      Instr.sbWake3 = .sbWake2 0b1000#4 ∨ Instr.sbWake3 = .sbWake3) := by decide

/-- The bounds of the four cases: (95, up), (94, up), (5, down), (6, down). -/
theorem witness_RampStepClampsThenReverses :
    (ramping.rampUp = true ∧ 100 ≤ ramping.dutyCycle.toNat + 5) ∧
    ({ ramping with dutyCycle := 94#7 }.rampUp = true ∧
      { ramping with dutyCycle := 94#7 }.dutyCycle.toNat + 5 < 100) ∧
    ({ ramping with dutyCycle := 5#7, rampUp := false }.rampUp = false ∧
      { ramping with dutyCycle := 5#7, rampUp := false }.dutyCycle.toNat ≤ 5) ∧
    ({ ramping with dutyCycle := 6#7, rampUp := false }.rampUp = false ∧
      5 < { ramping with dutyCycle := 6#7, rampUp := false }.dutyCycle.toNat) := by decide

theorem witness_StandbyRampAppliesNewDuty :
    ramping.rampUp = true ∧ { ramping with rampUp := false }.rampUp = false := by decide

/-- Two ticks with the chord still held, one failed read between them. -/
theorem witness_RampSequenceIsTriangle :
    { ramping with dutyCycle := 0#7, prevMask := 0b0011#4 }.state = .SB ∧
    { ramping with dutyCycle := 0#7, prevMask := 0b0011#4 }.dutyCycle = 0#7 ∧
    { ramping with dutyCycle := 0#7, prevMask := 0b0011#4 }.rampUp = true ∧
    quietFrom 0b0011#4 [tickLine 0b0011#4 5, failedLine, tickLine 0b0001#4 6] :=
  ⟨rfl, rfl, rfl, by decide, by decide, by decide, by decide, by decide, by decide, trivial⟩

theorem witness_StandbyLeftOnlyByEdge :
    ∃ t, ramping.state = .SB ∧ (nextPins (State.fed ramping [tickLine 0b0010#4 5])).rst = false ∧
      step (State.fed ramping [tickLine 0b0010#4 5]) = .next t ∧ t.state ≠ .SB ∧
      (nextPins (State.fed ramping [tickLine 0b0010#4 5])).validTick ∧
      (nextPins (State.fed ramping [tickLine 0b0010#4 5])).btn &&& ~~~ramping.prevMask ≠ 0b0000#4 :=
  ⟨_, rfl, rfl, rfl, by decide, by decide, by decide⟩

theorem witness_FailedReadIsNoEdge :
    (State.fed one8 [failedLine]).pending = [failedLine] ∧ failedLine.failedTick ∧ one8.state = .P ∧
    { one8 with state := .S }.state = .S ∧ { one8 with state := .F }.state = .F ∧ ramping.state = .SB := by decide

theorem witness_ErrorReportImpliesRecovery :
    (∃ t, step (State.fed { one8 with state := .F } [tickLine 0b1000#4 5]) = .next t ∧ t.out.err = .misaligned) ∧
    (∃ t, step (State.fed { small 8 with state := .F, inputCount := 8 } [tickLine 0b1000#4 5]) = .next t ∧
      t.out.err = .invariantViolated) :=
  ⟨⟨_, rfl, rfl⟩, ⟨_, rfl, rfl⟩⟩

theorem witness_InvariantViolatedIsUnreachable :
    ∃ s t : State, Inv s ∧ step s = .next t ∧ t.out.err = .misaligned :=
  ⟨State.fed { one8 with state := .F } [tickLine 0b1000#4 5], _, inv_fed misaligned_inv _, rfl, rfl⟩

theorem witness_FlashTellsThePushedBit :
    (∃ t, step (State.fed one8 [tickLine 0b0001#4 5]) = .next t ∧ t.out.flash = 0b01#2) ∧
    (∃ t, step (State.fed one8 [tickLine 0b0010#4 5]) = .next t ∧ t.out.flash = 0b10#2) :=
  ⟨⟨_, rfl, rfl⟩, ⟨_, rfl, rfl⟩⟩

/-- The longest result of a buffer, and a cursor at CAPACITY. -/
theorem witness_ResultPortLaysOutBytes :
    { small 16 with out := { Output.idle with result := some [0x48#8, 0x69#8] } }.out.result = some [0x48#8, 0x69#8] ∧
    [0x48#8, 0x69#8].length ≤ (small 16).params.capacity / 8 ∧
    { small 16 with inputCount := 16 }.inputCount ≤ { small 16 with inputCount := 16 }.params.capacity := by decide

/-- One record for each of the three patterns, and one with a flash. -/
theorem witness_ActuatorCallsFollowRecord :
    { Output.idle with ind := .slow }.ind = .slow ∧ { Output.idle with ind := .fastest }.ind = .fastest ∧
    { Output.idle with flash := 0b10#2 }.flash.getLsbD 1 = true := by decide

end Sys2Proof.Tests
end

section
/-! PROOFS. Whole-machine facts that every family rests on: what a step hands over to `exec`, that it completes, and
that it keeps the invariants of R33. -/

namespace Sys2Proof.Machine

/-! ### What a step hands over to `exec` -/

/-- A step is one operation on a state whose sample is taken; HOLD_EVAL and EDGE wrote at most `hold` and
`prev_mask` (R36, R140). -/
theorem step_eq_exec (s : State) :
    ∃ i s', step s = exec i s' ∧ s'.params = s.params ∧ s'.pending = s.pending.tail ∧
      s'.inputCount = s.inputCount ∧ s'.buf = s.buf := by
  rcases step_cases s with ⟨_, h⟩ | ⟨_, _, h⟩ | ⟨_, h⟩ | ⟨_, _, h⟩ | ⟨_, _, h⟩
  all_goals exact ⟨_, _, h, rfl, rfl, rfl, rfl⟩

/-- Settles O12: sampling takes the first pin sample, and no operation touches the parameters or the samples. -/
theorem stepKeepsParameters : Obligations.StepKeepsParameters := by
  intro s t h
  obtain ⟨i, s', he, hparams, hpending, _, _⟩ := step_eq_exec s
  obtain ⟨hp, hq⟩ := exec_keeps_model (he ▸ h)
  exact ⟨hp.trans hparams, hq.trans hpending⟩

/-! ### Completion: within CAPACITY no operation stops the block (R58, R190) -/

theorem pushInPrimary_completes (b : Bool) {s : State} (h : s.inputCount ≤ s.params.capacity) :
    ∃ t, pushInPrimary b s = .next t := by
  rcases Nat.lt_or_eq_of_le h with hlt | heq
  · exact ⟨_, by rw [pushInPrimary, push_beginOp b hlt]⟩
  · exact ⟨_, by rw [pushInPrimary, push_full b (s := beginOp s) heq]⟩

theorem pushInSecondary_completes (b : Bool) {s : State} (h : s.inputCount ≤ s.params.capacity) :
    ∃ t, pushInSecondary b s = .next t := by
  rcases Nat.lt_or_eq_of_le h with hlt | heq
  · exact ⟨_, by rw [pushInSecondary, push_beginOp b hlt]⟩
  · exact ⟨_, by rw [pushInSecondary, push_full b (s := beginOp s) heq]⟩

theorem execFPack_completes (e : Mask) {s : State} (h : s.inputCount ≤ s.params.capacity) :
    ∃ t, execFPack e s = .next t := by
  rw [execFPack_eq]
  rcases pack_cases s with ⟨_, hp⟩ | ⟨_, hlt, _⟩ | ⟨_, _, _, hp⟩ | ⟨_, _, _, hp⟩
  · exact ⟨_, by rw [hp]⟩
  · exact absurd hlt (Nat.not_lt.2 h)
  · exact ⟨_, by rw [hp]⟩
  · exact ⟨_, by rw [hp]⟩

theorem exec_completes (i : Instr) {s : State} (h : s.inputCount ≤ s.params.capacity) :
    ∃ t, exec i s = .next t := by
  cases i
  case pPush0 | pPush1 => exact pushInPrimary_completes _ h
  case sPush0 | sPush1 => exact pushInSecondary_completes _ h
  case fPack e => exact execFPack_completes e h
  all_goals exact ⟨_, rfl⟩

theorem step_completes {s : State} (h : s.inputCount ≤ s.params.capacity) : ∃ t, step s = .next t := by
  obtain ⟨i, s', he, hp, _, hc, _⟩ := step_eq_exec s
  rw [he]
  exact exec_completes i (by rw [hp, hc]; exact h)

/-! ### The buffer and its cursor: INV1 to INV3 and the canonical form -/

/-- CLEAR_CURRENT_BLOCK does not read the output record. -/
theorem clearCurrentBlock_beginOp (s : State) : clearCurrentBlock (beginOp s) = beginOp (clearCurrentBlock s) := by
  by_cases h : s.inputCount = 0
  · rw [clearCurrentBlock_zero h, clearCurrentBlock_zero (s := beginOp s) h]
  · rw [clearCurrentBlock_of_ne h, clearCurrentBlock_of_ne (s := beginOp s) h]
    rfl

/-- An operation does one of four things to the buffer and its cursor: nothing, PUSH, CLEAR_CURRENT_BLOCK or
CLEAR_ALL. -/
theorem exec_buffer_cases {i : Instr} {s t : State} (h : exec i s = .next t) :
    (t.inputCount = s.inputCount ∧ t.buf = s.buf) ∨
    (∃ b, s.inputCount < s.params.capacity ∧ t.inputCount = s.inputCount + 1 ∧
      t.buf = s.buf.write s.inputCount (Entry.ofBit b)) ∨
    (t.inputCount = (clearCurrentBlock s).inputCount ∧ t.buf = (clearCurrentBlock s).buf) ∨
    (t.inputCount = 0 ∧ t.buf = []) := by
  have he := exec_next h
  cases i
  case pPush0 | sPush0 =>
    rcases he with ⟨_, rfl⟩ | ⟨hlt, rfl⟩
    · exact .inl ⟨rfl, rfl⟩
    · exact .inr (.inl ⟨false, hlt, rfl, rfl⟩)
  case pPush1 | sPush1 =>
    rcases he with ⟨_, rfl⟩ | ⟨hlt, rfl⟩
    · exact .inl ⟨rfl, rfl⟩
    · exact .inr (.inl ⟨true, hlt, rfl, rfl⟩)
  case fPack => rcases he with ⟨_, rfl⟩ | ⟨_, _, _, rfl⟩ | ⟨_, _, _, rfl⟩ <;> exact .inl ⟨rfl, rfl⟩
  case pClrblk =>
    obtain rfl := he
    rw [clearCurrentBlock_beginOp]
    exact .inr (.inr (.inl ⟨rfl, rfl⟩))
  case sClrall | fClrall | reset => obtain rfl := he; exact .inr (.inr (.inr ⟨rfl, rfl⟩))
  all_goals obtain rfl := he; exact .inl (by simp)

/-- INV1 to INV3 speak of the cursor, the buffer and CAPACITY alone. -/
theorem CursorInv.congr {s t : State} (h : CursorInv s) (hc : t.inputCount = s.inputCount) (hb : t.buf = s.buf)
    (hp : t.params = s.params) : CursorInv t := by
  refine ⟨?_, ?_, ?_⟩
  · rw [hc, hp]; exact h.count_le
  · rw [hc, hb]; exact h.set_below
  · rw [hc, hb]; exact h.unset_above

/-- An empty buffer with the cursor at 0 meets INV1 to INV3. -/
theorem CursorInv.of_empty {s : State} (hc : s.inputCount = 0) (hb : s.buf = []) : CursorInv s :=
  ⟨by omega, fun i hi => by omega, fun i _ => by rw [hb]; rfl⟩

/-- A bit put at a cursor below CAPACITY, the cursor moved on, keeps INV1 to INV3. -/
theorem CursorInv.of_pushed {s t : State} {b : Bool} (h : CursorInv s) (hlt : s.inputCount < s.params.capacity)
    (hc : t.inputCount = s.inputCount + 1) (hb : t.buf = s.buf.write s.inputCount (Entry.ofBit b))
    (hp : t.params = s.params) : CursorInv t := by
  refine ⟨by rw [hc, hp]; exact hlt, fun i hi => ?_, fun i hi => ?_⟩
  · rw [hb, Memory.read_write]
    split_ifs with heq
    · exact Entry.ofBit_ne_unset b
    · exact h.set_below i (by omega)
  · rw [hb, Memory.read_write_other _ _ (by omega)]
    exact h.unset_above i (by omega)

/-- CLEAR_CURRENT_BLOCK keeps INV1 to INV3: the block it clears reaches past the last written bit (R122). -/
theorem CursorInv.clearCurrentBlock {s : State} (h : CursorInv s) : CursorInv (clearCurrentBlock s) := by
  by_cases h0 : s.inputCount = 0
  · rw [clearCurrentBlock_zero h0]; exact h
  obtain ⟨_, hlow, hhigh⟩ := currentBlockStart_spec s.inputCount
  have hcap := h.count_le
  rw [clearCurrentBlock_of_ne h0]
  refine ⟨by simp only; omega, fun i hi => ?_, fun i hi => ?_⟩ <;> simp only [Config.block] at hi ⊢ <;>
    rw [read_clearEntries]
  · rw [if_neg (by omega)]
    exact h.set_below i (by omega)
  · split_ifs with hin
    · rfl
    · exact h.unset_above i (by omega)

theorem exec_keeps_cursor {i : Instr} {s t : State} (h : exec i s = .next t) (hs : CursorInv s) : CursorInv t := by
  obtain ⟨hp, _⟩ := exec_keeps_model h
  rcases exec_buffer_cases h with ⟨hc, hb⟩ | ⟨b, hlt, hc, hb⟩ | ⟨hc, hb⟩ | ⟨hc, hb⟩
  · exact hs.congr hc hb hp
  · exact hs.of_pushed hlt hc hb hp
  · exact hs.clearCurrentBlock.congr hc hb (by simp [hp])
  · exact .of_empty hc hb

theorem exec_keeps_memory {i : Instr} {s t : State} (h : exec i s = .next t) (hs : s.buf.wf s.params.capacity) :
    t.buf.wf t.params.capacity := by
  obtain ⟨hp, _⟩ := exec_keeps_model h
  rcases exec_buffer_cases h with ⟨_, hb⟩ | ⟨b, hlt, _, hb⟩ | ⟨_, hb⟩ | ⟨_, hb⟩
  · rw [hb, hp]; exact hs
  · rw [hb, hp]; exact Memory.wf_write _ hlt hs
  · rw [hb, hp]; simpa using clearCurrentBlock_wf hs
  · rw [hb]; exact Memory.wf_nil _

theorem step_keeps_cursor {s t : State} (h : step s = .next t) (hs : CursorInv s) : CursorInv t := by
  obtain ⟨i, s', he, hp, _, hc, hb⟩ := step_eq_exec s
  exact exec_keeps_cursor (he ▸ h) (hs.congr hc hb hp)

theorem step_keeps_memory {s t : State} (h : step s = .next t) (hs : s.buf.wf s.params.capacity) :
    t.buf.wf t.params.capacity := by
  obtain ⟨i, s', he, hp, _, _, hb⟩ := step_eq_exec s
  exact exec_keeps_memory (he ▸ h) (by rw [hb, hp]; exact hs)

/-! ### The control state, the ramp and the hold timer: INV4 to INV9 -/

/-- INV4 to INV9 do not read the pin samples or the output record. -/
theorem ModeInv.with_model {s : State} (h : ModeInv s) (ps : List Pins) (o : Output) :
    ModeInv { s with pending := ps, out := o } :=
  ⟨h.last_ne_standby, h.duty_le, h.duty_mod, h.duty_outside, h.hold_standby, h.hold_chord, h.ramp_bottom,
    h.ramp_top, h.hold_range⟩

theorem ModeInv.beginOp {s : State} (h : ModeInv s) : ModeInv (beginOp s) := h.with_model s.pending _

/-- Outside SB, INV4 to INV9 come down to a saved state, a duty of 0 and the timer as it was. -/
theorem ModeInv.of_active {s t : State} (h : ModeInv s) (hst : t.state ≠ .SB) (hlast : t.lastActiveState ≠ .SB)
    (hduty : t.dutyCycle = 0#7) (hmask : t.prevMask = s.prevMask) (hhold : t.hold = s.hold)
    (hp : t.params = s.params) : ModeInv t where
  last_ne_standby := hlast
  duty_le := by simp [hduty]
  duty_mod := by simp [hduty]
  duty_outside _ := hduty
  hold_standby hsb := absurd hsb hst
  hold_chord := by rw [hhold, hp, hmask]; exact h.hold_chord
  ramp_bottom hsb := absurd hsb hst
  ramp_top hsb := absurd hsb hst
  hold_range := by rw [hhold, hp]; exact h.hold_range

/-- HOLD_EVAL and EDGE outside SB keep INV4 to INV9: a running timer has the chord in the mask just stored. -/
theorem ModeInv.sample_active {s : State} (h : ModeInv s) (hst : s.state ≠ .SB) (p : Pins) :
    ModeInv { s with
      pending := s.pending.tail
      prevMask := p.btn
      hold := holdNext p.btn (sampleNow s.params p) s } where
  last_ne_standby := h.last_ne_standby
  duty_le := h.duty_le
  duty_mod := h.duty_mod
  duty_outside := h.duty_outside
  hold_standby hsb := absurd hsb hst
  hold_chord hne := by
    obtain ⟨u, hu⟩ := Option.ne_none_iff_exists'.1 hne
    exact chord_of_holdNext (s := s) hu
  ramp_bottom := h.ramp_bottom
  ramp_top := h.ramp_top
  hold_range u hu := by
    rcases holdNext_eq_some (s := s) hu with rfl | hs
    · exact Nat.mod_lt _ (Nat.two_pow_pos _)
    · exact h.hold_range u hs

/-- EDGE alone in SB keeps INV4 to INV9: no timer runs there. -/
theorem ModeInv.sample_standby {s : State} (h : ModeInv s) (hst : s.state = .SB) (m : Mask) :
    ModeInv { s with pending := s.pending.tail, prevMask := m } where
  last_ne_standby := h.last_ne_standby
  duty_le := h.duty_le
  duty_mod := h.duty_mod
  duty_outside := h.duty_outside
  hold_standby := h.hold_standby
  hold_chord hne := absurd (h.hold_standby hst) hne
  ramp_bottom := h.ramp_bottom
  ramp_top := h.ramp_top
  hold_range := h.hold_range

/-- The writes of RESET establish INV4 to INV9, whatever the state was (R220). -/
theorem modeInv_reset (s : State) : ModeInv (goTo .P (resetElements s)) := by
  constructor <;> simp

/-- Standby entry with no timer running (R143): duty 0, the ramp upwards, an active state saved. -/
theorem modeInv_enterStandby {s : State} {st : FsmState} (hst : st ≠ .SB) (hhold : s.hold = none) :
    ModeInv (enterStandby st s) := by
  constructor <;> simp [hst, hhold]

/-- Standby return (R159): the saved state is active and the duty 0. -/
theorem ModeInv.leaveStandby {s : State} (h : ModeInv s) : ModeInv (leaveStandby s) :=
  h.of_active (by simpa using h.last_ne_standby) (by simpa using h.last_ne_standby) (by simp) (by simp) (by simp)
    (by simp)

/-- What RAMP_STEP keeps of INV5 and INV9 (R180): the duty is a multiple of 5 up to 100, and at each bound the
direction is away from it. -/
theorem rampStep_duty {s : State} (hle : s.dutyCycle.toNat ≤ 100) (hmod : s.dutyCycle.toNat % 5 = 0) :
    (rampStep s).dutyCycle.toNat ≤ 100 ∧ (rampStep s).dutyCycle.toNat % 5 = 0 ∧
      ((rampStep s).dutyCycle.toNat = 0 → (rampStep s).rampUp = true) ∧
      ((rampStep s).dutyCycle.toNat = 100 → (rampStep s).rampUp = false) := by
  rcases rampStep_cases s with ⟨_, _, h⟩ | ⟨hup, _, h⟩ | ⟨_, _, h⟩ | ⟨hup, _, h⟩
  · simp [h]
  · simp (disch := omega) only [h, BitVec.toNat_ofNat, Nat.mod_eq_of_lt, hup]; omega
  · simp [h]
  · simp (disch := omega) only [h, BitVec.toNat_ofNat, Nat.mod_eq_of_lt, hup]; omega

theorem ModeInv.rampStep {s : State} (h : ModeInv s) (hst : s.state = .SB) : ModeInv (rampStep s) := by
  obtain ⟨hle, hmod, hbottom, htop⟩ := rampStep_duty h.duty_le h.duty_mod
  constructor
  case duty_le => exact hle
  case duty_mod => exact hmod
  case ramp_bottom => exact fun _ h0 => hbottom (by simp [h0])
  case ramp_top => exact fun _ => htop
  case duty_outside => simp [hst]
  case last_ne_standby => simpa using h.last_ne_standby
  case hold_standby => simpa using h.hold_standby
  case hold_chord => simpa using h.hold_chord
  case hold_range => simpa using h.hold_range

/-! ### What the operation of a tick does to the control state -/

/-- The rows of the active states P, S and F with `f = 0` (R84). -/
def isActiveRow : Instr → Bool
  | .pIdle | .pPush0 _ | .pPush1 _ | .pClrblk _ | .pAdv => true
  | .sIdle | .sPush0 _ | .sPush1 _ | .sClrall _ | .sAdv => true
  | .fIdle _ | .fClrall _ | .fPack _ => true
  | _ => false

/-- Without `fire` a tick of an active state selects an active row. -/
theorem selected_isActiveRow {st : FsmState} (hst : st ≠ .SB) (e : Mask) :
    isActiveRow (selected st false e) = true := by
  cases st
  case SB => exact absurd rfl hst
  all_goals simp only [selected, Bool.false_eq_true, if_false]; split_ifs <;> rfl

/-- An active row moves between the active states and keeps the saved state and the duty (R144 to R158). -/
theorem exec_activeRow {i : Instr} {s t : State} (hi : isActiveRow i = true) (hst : s.state ≠ .SB)
    (h : exec i s = .next t) :
    t.state ≠ .SB ∧ t.lastActiveState = s.lastActiveState ∧ t.dutyCycle = s.dutyCycle := by
  have he := exec_next h
  cases i
  case pPush0 | pPush1 | sPush0 | sPush1 => rcases he with ⟨_, rfl⟩ | ⟨_, rfl⟩ <;> simp [hst]
  case fPack => rcases he with ⟨_, rfl⟩ | ⟨_, _, _, rfl⟩ | ⟨_, _, _, rfl⟩ <;> simp [hst]
  case pIdle | sIdle | fIdle | pClrblk | pAdv | sAdv | sClrall | fClrall => obtain rfl := he; simp [hst]
  all_goals cases hi

/-- With `fire` a tick of an active state enters standby and saves that state (R143). -/
theorem exec_selected_fire {s : State} (hst : s.state ≠ .SB) (e : Mask) :
    exec (selected s.state true e) s = .next (enterStandby s.state (beginOp s)) := by
  cases hs : s.state
  case SB => exact absurd hs hst
  all_goals rfl

/-- A tick in SB is one ramp step or the return from standby (R159, R160). -/
theorem exec_selected_standby {fire : Bool} {e : Mask} {s t : State} (h : exec (selected .SB fire e) s = .next t) :
    t = emitInd (.duty (rampStep (beginOp s)).dutyCycle) (rampStep (beginOp s)) ∨ t = leaveStandby (beginOp s) := by
  simp only [selected] at h
  split_ifs at h
  case neg => exact .inl (exec_next h)
  all_goals exact .inr (exec_next h)

/-- The operation of a tick keeps INV4 to INV9, given that a firing HOLD_EVAL has cleared the timer (R110). -/
theorem exec_selected_keeps_mode {fire : Bool} {e : Mask} {s t : State} (hs : ModeInv s)
    (hfire : fire = true → s.hold = none) (h : exec (selected s.state fire e) s = .next t) : ModeInv t := by
  by_cases hst : s.state = .SB
  · rw [hst] at h
    rcases exec_selected_standby h with rfl | rfl
    · exact (hs.beginOp.rampStep hst).with_model _ _
    · exact hs.beginOp.leaveStandby
  cases fire
  case true =>
    rw [exec_selected_fire hst] at h
    cases h
    exact modeInv_enterStandby hst (hfire rfl)
  case false =>
    obtain ⟨hstate, hlast, hduty⟩ := exec_activeRow (selected_isActiveRow hst e) hst h
    obtain ⟨hmask, hhold⟩ := exec_keeps_sampling h (selected_ne_reset _ _ _)
    obtain ⟨hparams, _⟩ := exec_keeps_model h
    exact hs.of_active hstate (hlast ▸ hs.last_ne_standby) (hduty.trans (hs.duty_outside hst)) hmask hhold hparams

theorem step_keeps_mode {s t : State} (h : step s = .next t) (hs : ModeInv s) : ModeInv t := by
  have htaken := hs.with_model s.pending.tail s.out
  rcases step_cases s with ⟨_, he⟩ | ⟨_, _, he⟩ | ⟨_, he⟩ | ⟨_, hst, he⟩ | ⟨_, hst, he⟩
  all_goals rw [he] at h
  · obtain rfl := exec_next h
    exact modeInv_reset _
  · obtain rfl := exec_next h
    exact htaken.beginOp
  · exact exec_selected_keeps_mode htaken (by simp) h
  · rw [← hst] at h
    exact exec_selected_keeps_mode (hs.sample_standby hst _) (by simp) h
  · exact exec_selected_keeps_mode (hs.sample_active hst _) holdNext_of_fires h

/-! ### Steps and runs -/

/-- A step keeps every invariant of R33. -/
theorem step_keeps_inv {s t : State} (h : step s = .next t) (hs : Inv s) : Inv t :=
  ⟨step_keeps_cursor h hs.cursor, step_keeps_mode h hs.mode, step_keeps_memory h hs.memory⟩

/-- From a state that meets the invariants a step completes and keeps them: INV1 excludes the only fault (R58). -/
theorem step_progress {s : State} (hs : Inv s) : ∃ t, step s = .next t ∧ Inv t := by
  obtain ⟨t, h⟩ := step_completes hs.cursor.count_le
  exact ⟨t, h, step_keeps_inv h hs⟩

/-- Settles O17, by induction on the number of clock edges. -/
theorem runNeverStops : Obligations.RunNeverStops := by
  intro n
  induction n with
  | zero => exact fun s hs => ⟨s, run_zero s, hs⟩
  | succ n ih =>
    intro s hs
    obtain ⟨u, hstep, hu⟩ := step_progress hs
    obtain ⟨t, hrun, ht⟩ := ih u hu
    exact ⟨t, (run_succ n hstep).trans hrun, ht⟩

end Sys2Proof.Machine
end

section
/-! PROOFS. The elements of the state (10_state.md): the invariants of R33 at reset and along every step, and the
state a reset edge leaves (R34). -/

namespace Sys2Proof.Machine

/-- Settles O13: the cursor, the mode and the form of the buffer are each kept by every step. -/
theorem stepKeepsInvariants : Obligations.StepKeepsInvariants :=
  fun _ _ hs h => step_keeps_inv h hs

/-! ### The reset state -/

/-- RESET leaves the reset state of the parameters, whatever the state was; the samples to come stay (R220). -/
theorem goTo_resetElements (s : State) :
    goTo .P (resetElements (beginOp s)) = { State.resetWith s.params with pending := s.pending } := rfl

/-- RESET on the reset state leaves it as it is, so what RESET establishes holds of it. -/
theorem goTo_resetElements_resetWith (p : Params) :
    goTo .P (resetElements (beginOp (State.resetWith p))) = State.resetWith p :=
  goTo_resetElements _

theorem modeInv_resetWith (p : Params) : ModeInv (State.resetWith p) := by
  rw [← goTo_resetElements_resetWith]
  exact modeInv_reset _

/-- Settles O14: the buffer is empty with the cursor at 0, and the modes are those that RESET establishes. -/
theorem resetMeetsInvariants : Obligations.ResetMeetsInvariants :=
  fun p => ⟨.of_empty rfl rfl, modeInv_resetWith p, resetWith_wf p⟩

/-- On a clock edge `rst` decides, whatever the other pins are (R71). -/
theorem step_of_rst {s : State} {p : Pins} {rest : List Pins} (hp : s.pending = p :: rest) (hr : p.rst = true) :
    step s = exec (.reset p.tick) { s with pending := rest } := by
  have hn : nextPins s = p := nextPins_cons hp
  have he := step_of_fetch (fetch_reset { s with pending := s.pending.tail } (hn ▸ hr)) (decode_ctrl_reset _)
  simpa only [hn, hp, List.tail_cons] using he

/-- Settles O19: a reset edge runs RESET, and the elements of the reset state are read off its definition. -/
theorem resetStateIsExactlyR34 : Obligations.ResetStateIsExactlyR34 := by
  refine ⟨fun s p rest hp hr => ?_, fun pr => ⟨rfl, rfl, fun _ => rfl, rfl, rfl, rfl, rfl, rfl⟩⟩
  rw [step_of_rst hp hr]
  exact congrArg Host.Outcome.next (goTo_resetElements { s with pending := rest })

end Sys2Proof.Machine
end

section
/-! PROOFS. The memory and the control state (20_memory.md): the form of the buffer list (R50), what can change the
control state (R62, R195), and reading the buffer out (R57). -/

namespace Sys2Proof.Machine

/-- Settles O16: no operation needs more than the form itself to keep it. -/
theorem stepKeepsMemoryForm : Obligations.StepKeepsMemoryForm :=
  fun _ _ hs h => step_keeps_memory h hs

/-! ### What can change the control state (R62, R195) -/

/-- A tick without an edge and without `fire` runs an idle row or, in SB, a ramp step: the control state stays. -/
theorem exec_selected_quiet_state {st : FsmState} {s t : State}
    (h : exec (selected st false 0b0000#4) s = .next t) (hst : s.state = st) : t.state = st := by
  have he := exec_next h
  cases st
  case P | S | F => obtain rfl : t = beginOp s := he; exact hst
  case SB =>
    obtain rfl : t = emitInd (.duty (rampStep (beginOp s)).dutyCycle) (rampStep (beginOp s)) := he
    simpa using hst

/-- Settles O29: without a valid tick, or with neither an edge nor `fire`, the edge runs NOTICK or the tick is a quiet
one. -/
theorem stateChangesOnlyOnEdgeOrGesture : Obligations.StateChangesOnlyOnEdgeOrGesture := by
  intro s t h hrst hne
  rcases step_cases s with ⟨hr, _⟩ | ⟨_, _, he⟩ | ⟨_, he⟩ | ⟨hv, hst, he⟩ | ⟨hv, hst, he⟩
  · exact absurd (hr.symm.trans hrst) (by decide)
  all_goals rw [he] at h
  · obtain rfl := exec_next h
    exact absurd rfl hne
  · exact absurd (exec_selected_quiet_state h rfl) hne
  · refine ⟨hv, .inl fun hquiet => hne ?_⟩
    rw [hquiet] at h
    exact (exec_selected_quiet_state h hst).trans hst.symm
  · refine ⟨hv, or_iff_not_imp_left.2 fun hedge => ⟨hst, ?_⟩⟩
    rw [not_not.1 hedge] at h
    by_contra hfire
    rw [Bool.eq_false_of_not_eq_true hfire] at h
    exact hne (exec_selected_quiet_state h rfl)

/-! ### Reading the buffer out (R57) -/

/-- F_PACK leaves the buffer and the cursor alone, in the successful and in the failing cases (R158). -/
theorem execFPack_keeps_buffer {e : Mask} {s t : State} (h : execFPack e s = .next t) :
    t.buf = s.buf ∧ t.inputCount = s.inputCount := by
  rcases execFPack_next h with ⟨_, rfl⟩ | ⟨_, _, _, rfl⟩ | ⟨_, _, _, rfl⟩ <;> exact ⟨rfl, rfl⟩

/-- What F_PACK reports depends on what PACK answers and on nothing else (R158). -/
theorem execFPack_out_of_pack (e e' : Mask) {s t u : State} (hp : pack u = pack s)
    (h : execFPack e s = .next t) : ∃ v, execFPack e' u = .next v ∧ v.out = t.out := by
  rw [execFPack_eq] at h ⊢
  rw [hp]
  generalize pack s = answer at h ⊢
  rcases answer with _ | _ | _ | _
  case error => cases h
  all_goals cases h; exact ⟨_, rfl, rfl⟩

/-- Settles O45: PACK reads the buffer, the cursor and CAPACITY alone, and F_PACK writes none of them. -/
theorem finalizePackIsRepeatable : Obligations.FinalizePackIsRepeatable := by
  intro s t u e e' h
  obtain ⟨hbuf, hcount⟩ := execFPack_keeps_buffer (e := e) h
  obtain ⟨hparams, _⟩ := exec_keeps_model h
  exact ⟨hbuf, hcount, fun hb hc hp =>
    execFPack_out_of_pack e e' (pack_congr (hb.trans hbuf) (hc.trans hcount) (hp.trans hparams)) h⟩

end Sys2Proof.Machine
end

section
/-! PROOFS. The encoding (30_encoding.md): the decoder and the encoder on every word and every operation (R82 to R86),
and the word a clock edge forms (R71, R83). -/

namespace Sys2Proof.Machine

/-! ### The EdgeMask patterns of the opcode map, bit by bit (R84) -/

theorem edgeMatches_xxx1 (e : Mask) : edgeMatches e 0b0001#4 0b0001#4 = true ↔ e[0] = true := by
  revert e; decide

theorem edgeMatches_xx10 (e : Mask) : edgeMatches e 0b0011#4 0b0010#4 = true ↔ e[0] = false ∧ e[1] = true := by
  revert e; decide

theorem edgeMatches_x100 (e : Mask) :
    edgeMatches e 0b0111#4 0b0100#4 = true ↔ e[0] = false ∧ e[1] = false ∧ e[2] = true := by
  revert e; decide

theorem edgeMatches_00xx (e : Mask) : edgeMatches e 0b1100#4 0b0000#4 = true ↔ e[2] = false ∧ e[3] = false := by
  revert e; decide

theorem edgeMatches_x1xx (e : Mask) : edgeMatches e 0b0100#4 0b0100#4 = true ↔ e[2] = true := by
  revert e; decide

theorem edgeMatches_10xx (e : Mask) : edgeMatches e 0b1100#4 0b1000#4 = true ↔ e[2] = false ∧ e[3] = true := by
  revert e; decide

/-- Without an edge on channels 0 to 2 there is one on channel 3 alone or none. -/
theorem mask_of_low_clear {e : Mask} (h0 : ¬ e.getLsbD 0 = true) (h1 : ¬ e.getLsbD 1 = true)
    (h2 : ¬ e.getLsbD 2 = true) : e = if e.getLsbD 3 then 0b1000#4 else 0b0000#4 := by
  revert e; decide

/-! ### The choice of R85, state by state -/

/-- The choice by the lowest-numbered edge, `idle` where there is none (R85). -/
def lowestEdge {α : Type} (e : Mask) (a0 a1 a2 a3 idle : α) : α :=
  if e.getLsbD 0 then a0 else if e.getLsbD 1 then a1 else if e.getLsbD 2 then a2
  else if e.getLsbD 3 then a3 else idle

theorem selected_P (e : Mask) :
    selected .P false e = lowestEdge e (.pPush0 e) (.pPush1 e) (.pClrblk e) .pAdv .pIdle := rfl

theorem selected_S (e : Mask) :
    selected .S false e = lowestEdge e (.sPush0 e) (.sPush1 e) (.sClrall e) .sAdv .sIdle := rfl

theorem selected_F (e : Mask) :
    selected .F false e = if e.getLsbD 2 then .fClrall e else if e.getLsbD 3 then .fPack e else .fIdle e := rfl

/-- In SB the fire bit chooses nothing. -/
theorem selected_SB (fire : Bool) (e : Mask) :
    selected .SB fire e = lowestEdge e (.sbWake0 e) (.sbWake1 e) (.sbWake2 e) .sbWake3 .sbRamp := rfl

/-- Where `k` is the lowest edge, its entry is chosen. -/
theorem lowestEdge_eq_getD {α : Type} {e : Mask} {k : Nat} (hk : k < 4) (he : e.getLsbD k = true)
    (hlow : ∀ j, j < k → e.getLsbD j = false) (a0 a1 a2 a3 idle d : α) :
    lowestEdge e a0 a1 a2 a3 idle = [a0, a1, a2, a3].getD k d := by
  have hno (j : Nat) (hj : j < k) : ¬ e.getLsbD j = true := by rw [hlow j hj]; decide
  unfold lowestEdge
  interval_cases k
  · exact if_pos he
  · rw [if_neg (hno 0 (by omega))]
    exact if_pos he
  · rw [if_neg (hno 0 (by omega)), if_neg (hno 1 (by omega))]
    exact if_pos he
  · rw [if_neg (hno 0 (by omega)), if_neg (hno 1 (by omega)), if_neg (hno 2 (by omega))]
    exact if_pos he

/-- Five rows of one state, taken by the lowest edge: the row taken admits the EdgeMask it was taken by. -/
theorem wellFormed_lowestEdge {e : Mask} {i0 i1 i2 i3 idle : Instr}
    (h0 : i0.wellFormed = edgeMatches e 0b0001#4 0b0001#4) (h1 : i1.wellFormed = edgeMatches e 0b0011#4 0b0010#4)
    (h2 : i2.wellFormed = edgeMatches e 0b0111#4 0b0100#4) (h3 : i3.wellFormed = true)
    (hidle : idle.wellFormed = true) : (lowestEdge e i0 i1 i2 i3 idle).wellFormed = true := by
  unfold lowestEdge
  split_ifs with c0 c1 c2 c3
  · exact h0.trans ((edgeMatches_xxx1 e).2 c0)
  · exact h1.trans ((edgeMatches_xx10 e).2 ⟨eq_false_of_ne_true c0, c1⟩)
  · exact h2.trans ((edgeMatches_x100 e).2 ⟨eq_false_of_ne_true c0, eq_false_of_ne_true c1, c2⟩)
  · exact h3
  · exact hidle

/-- Five rows of one state, taken by the lowest edge: the word of the row taken has the EdgeMask it was taken by. -/
theorem encode_lowestEdge {stf : BitVec 3} {e : Mask} {i0 i1 i2 i3 idle : Instr}
    (h0 : encode i0 = .tick (selWord stf e)) (h1 : encode i1 = .tick (selWord stf e))
    (h2 : encode i2 = .tick (selWord stf e)) (h3 : encode i3 = .tick (selWord stf 0b1000#4))
    (hidle : encode idle = .tick (selWord stf 0b0000#4)) :
    encode (lowestEdge e i0 i1 i2 i3 idle) = .tick (selWord stf e) := by
  unfold lowestEdge
  split_ifs with c0 c1 c2 c3
  · exact h0
  · exact h1
  · exact h2
  all_goals have he := mask_of_low_clear c0 c1 c2
  · rw [if_pos c3] at he
    rw [h3, ← he]
  · rw [if_neg c3] at he
    rw [hidle, ← he]

/-! ### The selector words are the words of `st`, `f` and `e` (R82, R86) -/

/-- A selector word is the word of its three fields. -/
theorem mkSel_fields (w : Sel) :
    mkSel (stateOfCode (Sel.stateField w)) (Sel.fireField w) (Sel.edgeField w) = w := by
  revert w; decide

theorem exists_mkSel_eq (w : Sel) : ∃ st fire e, mkSel st fire e = w := ⟨_, _, _, mkSel_fields w⟩

/-- The words of R86 (a) are those of SB with `f = 1`. -/
theorem mkSel_unformed_iff (st : FsmState) (fire : Bool) (e : Mask) :
    mkSel st fire e &&& 0x70#7 = 0x70#7 ↔ st = .SB ∧ fire = true := by
  cases st <;> cases fire <;> revert e <;> decide

theorem mkSel_standby_fire_cleared (e : Mask) : mkSel .SB true e &&& 0x6F#7 = mkSel .SB false e := by
  revert e; decide

/-- Normalising drops `f` in SB and nothing else (R86 (a)). -/
theorem normalizeSel_mkSel (st : FsmState) (fire : Bool) (e : Mask) :
    normalizeSel (mkSel st fire e) = mkSel st (fire && decide (st ≠ .SB)) e := by
  unfold normalizeSel
  split_ifs with h
  · obtain ⟨rfl, rfl⟩ := (mkSel_unformed_iff _ _ _).1 h
    exact mkSel_standby_fire_cleared e
  · rw [mkSel_unformed_iff] at h
    cases fire
    · rfl
    · have hst : st ≠ .SB := fun hst => h ⟨hst, rfl⟩
      simp [hst]

/-- In SB the fire bit chooses nothing, so dropping it there does not change the operation. -/
theorem selected_fire_outside_standby (st : FsmState) (fire : Bool) (e : Mask) :
    selected st (fire && decide (st ≠ .SB)) e = selected st fire e := by
  by_cases hst : st = .SB
  · subst hst; rfl
  · simp [hst]

/-- A selector word decodes as its normal form. -/
theorem decode_normalizeSel (w : Sel) : decode (.tick (normalizeSel w)) = decode (.tick w) := by
  obtain ⟨st, fire, e, rfl⟩ := exists_mkSel_eq w
  rw [normalizeSel_mkSel, decode_mkSel, decode_mkSel, selected_fire_outside_standby]

/-! ### The operations of format TICK are those R85 chooses -/

/-- A row's EdgeMask pattern says that its channel is the lowest edge with an action, so R85 chooses the row. -/
theorem eq_selected_of_wellFormed {i : Instr} (h : i.wellFormed = true) :
    (∃ st fire e, i = selected st fire e) ∨ (∃ t, i = .reset t) ∨ i = .notick := by
  cases i
  case reset t => exact .inr (.inl ⟨t, rfl⟩)
  case notick => exact .inr (.inr rfl)
  all_goals left
  case holdFireP e => exact ⟨.P, true, e, rfl⟩
  case holdFireS e => exact ⟨.S, true, e, rfl⟩
  case holdFireF e => exact ⟨.F, true, e, rfl⟩
  case pIdle => exact ⟨.P, false, 0b0000#4, rfl⟩
  case pPush0 e => exact ⟨.P, false, e, by simp [selected, (edgeMatches_xxx1 e).1 h]⟩
  case pPush1 e => exact ⟨.P, false, e, by simp [selected, (edgeMatches_xx10 e).1 h]⟩
  case pClrblk e => exact ⟨.P, false, e, by simp [selected, (edgeMatches_x100 e).1 h]⟩
  case pAdv => exact ⟨.P, false, 0b1000#4, rfl⟩
  case sIdle => exact ⟨.S, false, 0b0000#4, rfl⟩
  case sPush0 e => exact ⟨.S, false, e, by simp [selected, (edgeMatches_xxx1 e).1 h]⟩
  case sPush1 e => exact ⟨.S, false, e, by simp [selected, (edgeMatches_xx10 e).1 h]⟩
  case sClrall e => exact ⟨.S, false, e, by simp [selected, (edgeMatches_x100 e).1 h]⟩
  case sAdv => exact ⟨.S, false, 0b1000#4, rfl⟩
  case fIdle e => exact ⟨.F, false, e, by simp [selected, (edgeMatches_00xx e).1 h]⟩
  case fClrall e => exact ⟨.F, false, e, by simp [selected, (edgeMatches_x1xx e).1 h]⟩
  case fPack e => exact ⟨.F, false, e, by simp [selected, (edgeMatches_10xx e).1 h]⟩
  case sbRamp => exact ⟨.SB, false, 0b0000#4, rfl⟩
  case sbWake0 e => exact ⟨.SB, false, e, by simp [selected, (edgeMatches_xxx1 e).1 h]⟩
  case sbWake1 e => exact ⟨.SB, false, e, by simp [selected, (edgeMatches_xx10 e).1 h]⟩
  case sbWake2 e => exact ⟨.SB, false, e, by simp [selected, (edgeMatches_x100 e).1 h]⟩
  case sbWake3 => exact ⟨.SB, false, 0b1000#4, rfl⟩

/-- The operation R85 chooses carries an EdgeMask that its row admits. -/
theorem selected_wellFormed (st : FsmState) (fire : Bool) (e : Mask) : (selected st fire e).wellFormed = true := by
  cases st
  case P | S =>
    cases fire
    · exact wellFormed_lowestEdge rfl rfl rfl rfl rfl
    · rfl
  case F =>
    cases fire
    · rw [selected_F]
      split_ifs with c2 c3
      · exact (edgeMatches_x1xx e).2 c2
      · exact (edgeMatches_10xx e).2 ⟨eq_false_of_ne_true c2, c3⟩
      · exact (edgeMatches_00xx e).2 ⟨eq_false_of_ne_true c2, eq_false_of_ne_true c3⟩
    · rfl
  case SB => exact wellFormed_lowestEdge rfl rfl rfl rfl rfl

/-- The word of the operation R85 chooses is the normal form of the word it was chosen by. -/
theorem encode_selected (st : FsmState) (fire : Bool) (e : Mask) :
    encode (selected st fire e) = .tick (normalizeSel (mkSel st fire e)) := by
  rw [normalizeSel_mkSel]
  cases st
  case P | S =>
    cases fire
    · exact encode_lowestEdge rfl rfl rfl rfl rfl
    · rfl
  case F =>
    cases fire
    · rw [selected_F]
      split_ifs <;> rfl
    · rfl
  case SB =>
    rw [show (fire && decide (FsmState.SB ≠ .SB)) = false from Bool.and_false fire]
    exact encode_lowestEdge rfl rfl rfl rfl rfl

/-- Settles O1: a well-formed operation of format TICK is the one R85 chooses, and its word, normalised or not, decodes
to that choice. -/
theorem decodeEncodeRoundTrip : Obligations.DecodeEncodeRoundTrip := by
  intro i hi
  rcases eq_selected_of_wellFormed hi with ⟨st, fire, e, rfl⟩ | ⟨t, rfl⟩ | rfl
  · rw [encode_selected, decode_normalizeSel, decode_mkSel]
  · exact decode_ctrl_reset t
  · exact decode_ctrl_notick

/-- The control words that decode: `1x` as RESET with the `tick` pin, `00` as NOTICK (R83). -/
theorem decode_ctrl_ok {c : Ctrl} {i : Instr} (h : decode (.ctrl c) = .ok i) :
    (∃ t, c = 0b1#1 ++ BitVec.ofBool t ∧ i = .reset t) ∨ (c = 0b00#2 ∧ i = .notick) := by
  simp only [decode, decodeCtrl] at h
  split_ifs at h with hr hn
  · cases h
    exact .inl ⟨c.getLsbD 0, by revert c; decide, rfl⟩
  · cases h
    exact .inr ⟨hn, rfl⟩

/-- Settles O2: every selector word is formed by some `st`, `f` and `e`, and R85 chooses its operation. -/
theorem decodedOperationEncodesBack : Obligations.DecodedOperationEncodesBack := by
  intro w i h
  cases w with
  | ctrl c => rcases decode_ctrl_ok h with ⟨t, rfl, rfl⟩ | ⟨rfl, rfl⟩ <;> exact ⟨rfl, rfl⟩
  | tick w =>
    obtain ⟨st, fire, e, rfl⟩ := exists_mkSel_eq w
    rw [decode_mkSel] at h
    cases h
    exact ⟨selected_wellFormed st fire e, encode_selected st fire e⟩

/-! ### The rows of format TICK (R84) -/

/-- One row for each word of an active state, and for each word of SB with `f = 0`. -/
theorem rows_of_formed (st : FsmState) {fire : Bool} (e : Mask) (h : ¬ (st = .SB ∧ fire = true)) :
    (selRows.filter (selRowMatches (mkSel st fire e))).length = 1 := by
  cases st <;> cases fire
  case SB.true => exact absurd ⟨rfl, rfl⟩ h
  all_goals clear h; revert e; decide

theorem rows_of_unformed (e : Mask) : (selRows.filter (selRowMatches (mkSel .SB true e))).length = 0 := by
  revert e; decide

/-- Settles O3: the words of R86 (a) are those of SB with `f = 1`, where R85 does not look at `f`. -/
theorem selectorRowsDisjointAndCovering : Obligations.SelectorRowsDisjointAndCovering := by
  refine ⟨fun w hw => ?_, fun w hw => ?_⟩ <;> obtain ⟨st, fire, e, rfl⟩ := exists_mkSel_eq w
  · exact rows_of_formed st e ((mkSel_unformed_iff _ _ _).not.1 hw)
  · obtain ⟨rfl, rfl⟩ := (mkSel_unformed_iff _ _ _).1 hw
    refine ⟨rows_of_unformed e, ?_⟩
    rw [mkSel_standby_fire_cleared, decode_mkSel, decode_mkSel]
    rfl

/-- Settles O4: each choice is R85's, read off at the lowest edge with an action. -/
theorem priorityChoosesLowestActiveChannel : Obligations.PriorityChoosesLowestActiveChannel := by
  simp only [Obligations.PriorityChoosesLowestActiveChannel, decode_mkSel]
  refine ⟨fun e => ⟨rfl, rfl, rfl⟩, fun e k hk he hlow => ?_, fun e => ?_⟩
  · rw [selected_P, selected_S, selected_SB]
    exact ⟨congrArg _ (lowestEdge_eq_getD hk he hlow ..), congrArg _ (lowestEdge_eq_getD hk he hlow ..),
      congrArg _ (lowestEdge_eq_getD hk he hlow ..)⟩
  · rw [selected_F]
    refine ⟨fun h2 => ?_, fun h2 h3 => ?_, fun h2 h3 => ?_⟩
    · rw [if_pos h2]
    · rw [if_neg (ne_true_of_eq_false h2), if_pos h3]
    · rw [if_neg (ne_true_of_eq_false h2), if_neg (ne_true_of_eq_false h3)]

/-- Settles O5: each selector word is that of its three fields. -/
theorem opcodeMapWordsDecode : Obligations.OpcodeMapWordsDecode :=
  ⟨decode_mkSel .P true 0b0101#4, decode_mkSel .P false 0b1011#4, decode_mkSel .S false 0b0110#4,
    decode_mkSel .F false 0b1010#4, decode_mkSel .SB false 0b1100#4, decode_ctrl_reset true, decode_ctrl_notick⟩

/-! ### The word a clock edge forms, and the step (R71, R83, R140) -/

theorem mkCtrl_of_rst {p : Pins} (h : p.rst = true) : mkCtrl p = 0b1#1 ++ BitVec.ofBool p.tick := by
  rw [mkCtrl, h]
  rfl

theorem mkCtrl_idle {p : Pins} (hr : p.rst = false) (ht : p.tick = false) : mkCtrl p = 0b00#2 := by
  rw [mkCtrl, hr, ht]
  rfl

/-- Settles O6, by the three control words that pins can form. -/
theorem controlWordSelects : Obligations.ControlWordSelects := by
  refine fun p s => ⟨fun hr => ?_, fun hr ht => ?_, fun hr ht => ?_⟩
  · rw [mkCtrl_of_rst hr]
    exact ⟨fetch_reset s hr, decode_ctrl_reset p.tick⟩
  · rw [fetch_tick s hr ht]
  · rw [mkCtrl_idle hr ht]
    exact ⟨fetch_notick s hr ht, decode_ctrl_notick⟩

/-- Settles O7: the decoded operation runs on the state that sampling leaves. -/
theorem stepRunsDecodedOperation : Obligations.StepRunsDecodedOperation := by
  intro s i h
  rw [takePins_snd] at h ⊢
  exact step_of_fetch rfl h

theorem pushInPrimary_ne_refused (b : Bool) (s : State) (r : Refusal) : pushInPrimary b s ≠ .refused r := by
  unfold pushInPrimary
  split <;> simp

theorem pushInSecondary_ne_refused (b : Bool) (s : State) (r : Refusal) : pushInSecondary b s ≠ .refused r := by
  unfold pushInSecondary
  split <;> simp

theorem execFPack_ne_refused (e : Mask) (s : State) (r : Refusal) : execFPack e s ≠ .refused r := by
  unfold execFPack
  split <;> simp

/-- Every operation has its meaning. -/
theorem exec_ne_refused (i : Instr) (s : State) (r : Refusal) : exec i s ≠ .refused r := by
  cases i
  case pPush0 | pPush1 => exact pushInPrimary_ne_refused _ s r
  case sPush0 | sPush1 => exact pushInSecondary_ne_refused _ s r
  case fPack e => exact execFPack_ne_refused e s r
  all_goals intro h; cases h

/-- Settles O10: every word the block forms names an operation, and no operation refuses. -/
theorem stepNeverRefuses : Obligations.StepNeverRefuses := by
  intro s r
  obtain ⟨i, s', he, _⟩ := step_eq_exec s
  rw [he]
  exact exec_ne_refused i s' r

end Sys2Proof.Machine
end

section
/-! PROOFS. What the output record carries to the pins and to the actuator (30_encoding.md: R75 to R81, R89). -/

namespace Sys2Proof.Machine

/-! ### The flash (R77) -/

@[simp] theorem goTo_out_flash (t : FsmState) (s : State) : (goTo t s).out.flash = s.out.flash := by
  cases t <;> rfl

@[simp] theorem leaveStandby_out_flash (s : State) : (leaveStandby s).out.flash = s.out.flash := by
  simp [leaveStandby]

/-- An operation requests no flash, or it pushed a bit and requests that bit's flash. -/
theorem exec_flash_cases {i : Instr} {s t : State} (h : exec i s = .next t) :
    t.out.flash = 0b00#2 ∨
    ∃ b, t.inputCount = s.inputCount + 1 ∧ t.buf = s.buf.write s.inputCount (Entry.ofBit b) ∧
      t.out.flash = if b then 0b10#2 else 0b01#2 := by
  have he := exec_next h
  cases i
  case pPush0 | sPush0 =>
    rcases he with ⟨_, rfl⟩ | ⟨_, rfl⟩
    · exact .inl rfl
    · exact .inr ⟨false, rfl, rfl, rfl⟩
  case pPush1 | sPush1 =>
    rcases he with ⟨_, rfl⟩ | ⟨_, rfl⟩
    · exact .inl rfl
    · exact .inr ⟨true, rfl, rfl, rfl⟩
  case fPack => rcases he with ⟨_, rfl⟩ | ⟨_, _, _, rfl⟩ | ⟨_, _, _, rfl⟩ <;> exact .inl rfl
  all_goals obtain rfl := he; left; simp [Output.idle]

/-- Settles O54: sampling moves neither the buffer nor the cursor, and an operation that flashes has pushed. -/
theorem flashTellsThePushedBit : Obligations.FlashTellsThePushedBit := by
  intro s t h hflash
  obtain ⟨i, s', he, _, _, hcount, hbuf⟩ := step_eq_exec s
  rcases exec_flash_cases (he ▸ h) with hidle | ⟨b, hc, hb, hf⟩
  · exact absurd hidle hflash
  · rw [hcount] at hc hb
    rw [hb, hf, Memory.read_write_same]
    refine ⟨hc, ?_⟩
    cases b
    · exact .inl ⟨rfl, rfl⟩
    · exact .inr ⟨rfl, rfl⟩

/-! ### The widths of the counting ports (R11) -/

/-- `ceilLog2` finds its exponent within the range it searches. -/
theorem le_two_pow_ceilLog2 (n : Nat) : n ≤ 2 ^ ceilLog2 n := by
  unfold ceilLog2
  cases hf : (List.range n).find? fun k => n ≤ 2 ^ k with
  | some k => simpa using List.find?_some hf
  | none =>
    rcases Nat.eq_zero_or_pos n with rfl | hpos
    · exact Nat.zero_le _
    · have hlast := List.find?_eq_none.1 hf (n - 1) (List.mem_range.2 (by omega))
      have hlt : n - 1 < 2 ^ (n - 1) := Nat.lt_two_pow_self
      exact absurd (show n ≤ 2 ^ (n - 1) by omega) (by simpa using hlast)

/-- A port of the width `ceilLog2 (n + 1)` holds the numbers up to `n`. -/
theorem toNat_ofNat_ceilLog2 {n k : Nat} (h : k ≤ n) : (BitVec.ofNat (ceilLog2 (n + 1)) k).toNat = k := by
  have hn := le_two_pow_ceilLog2 (n + 1)
  rw [BitVec.toNat_ofNat, Nat.mod_eq_of_lt (by omega)]

/-! ### The bytes of the result port (R78) -/

theorem bytesValue_cons (b : Byte) (bs : List Byte) : bytesValue (b :: bs) = b.toNat + 2 ^ 8 * bytesValue bs := rfl

theorem bytesValue_lt (bs : List Byte) : bytesValue bs < 2 ^ (8 * bs.length) := by
  induction bs with
  | nil => simp [bytesValue]
  | cons b bs ih =>
    have hb := b.isLt
    rw [bytesValue_cons, List.length_cons, Nat.mul_succ, Nat.pow_add]
    omega

/-- Byte `j` of the number is byte `j` of the list, zero past its end. -/
theorem bytesValue_shiftRight_mod (bs : List Byte) (j : Nat) :
    (bytesValue bs >>> (8 * j)) % 2 ^ 8 = (bs.getD j 0#8).toNat := by
  induction bs generalizing j with
  | nil => simp [bytesValue]
  | cons b bs ih =>
    have hb := b.isLt
    rw [bytesValue_cons]
    cases j with
    | zero => simp; omega
    | succ j =>
      have htail : (b.toNat + 2 ^ 8 * bytesValue bs) >>> 8 = bytesValue bs := by
        rw [Nat.shiftRight_eq_div_pow]
        omega
      rw [Nat.mul_succ, Nat.add_comm (8 * j), Nat.shiftRight_add, htail, ih]
      rfl

/-- A port of `m` bytes shows every byte of a list that fits. -/
theorem extractLsb'_bytesValue {bs : List Byte} {m : Nat} (h : bs.length ≤ m) (j : Nat) :
    (BitVec.ofNat (8 * m) (bytesValue bs)).extractLsb' (8 * j) 8 = bs.getD j 0#8 := by
  have hfits : bytesValue bs < 2 ^ (8 * m) :=
    (bytesValue_lt bs).trans_le (Nat.pow_le_pow_right (by omega) (by omega))
  apply BitVec.eq_of_toNat_eq
  rw [BitVec.extractLsb'_toNat, BitVec.toNat_ofNat, Nat.mod_eq_of_lt hfits, bytesValue_shiftRight_mod]

theorem portResultLen_of_result {s : State} {bs : List Byte} (h : s.out.result = some bs) :
    portResultLen s = BitVec.ofNat _ bs.length := by
  simp [portResultLen, h]

theorem portResultBytes_of_result {s : State} {bs : List Byte} (h : s.out.result = some bs) :
    portResultBytes s = BitVec.ofNat _ (bytesValue bs) := by
  simp [portResultBytes, h]

/-- Settles O56: the widths of R11 hold the numbers, and a list that fits the port is read back byte by byte. -/
theorem resultPortLaysOutBytes : Obligations.ResultPortLaysOutBytes := by
  refine fun s bs hres hlen => ⟨?_, ?_, fun j _ => ?_, fun hc => ?_⟩
  · simp [portResultValid, hres]
  · rw [portResultLen_of_result hres]
    exact toNat_ofNat_ceilLog2 hlen
  · rw [portResultBytes_of_result hres]
    exact extractLsb'_bytesValue hlen j
  · exact toNat_ofNat_ceilLog2 hc

/-! ### The codes (R76, R79, R80, R81) -/

theorem IndCmd.code_not_reserved (c : IndCmd) : c.code ≠ 0b110#3 ∧ c.code ≠ 0b111#3 := by
  cases c <;> simp [IndCmd.code]

theorem ErrKind.code_not_reserved (k : ErrKind) : k.code ≠ 0b11#2 := by
  cases k <;> simp [ErrKind.code]

/-- Settles O55: the codes are read off their definitions, and no command or error kind has a reserved one. -/
theorem portCodesAndReservedCodes : Obligations.PortCodesAndReservedCodes := by
  refine ⟨⟨rfl, rfl, rfl, rfl⟩, ⟨rfl, rfl, rfl, rfl, rfl, fun _ => rfl⟩, ⟨rfl, rfl, rfl⟩, ⟨rfl, rfl, rfl⟩,
    fun s => ?_⟩
  obtain ⟨h6, h7⟩ := s.out.ind.code_not_reserved
  exact ⟨h6, h7, s.out.err.code_not_reserved⟩

/-! ### The record at the reference actuator (R77, R89) -/

theorem mem_flashCalls (f : BitVec 2) (a : ActuatorCall) :
    a ∈ flashCalls f ↔ ∃ k, k < 2 ∧ f.getLsbD k = true ∧ ActuatorCall.flash k = a := by
  simp [flashCalls, and_assoc]

theorem set_mem_indCalls (n : Nat) (i : IndCmd) (c : Nat) (on : Bool) :
    ActuatorCall.set c on ∈ indCalls n i ↔ i = .allOn ∧ on = true ∧ c < n := by
  cases i <;> simp [indCalls, blinkCall, and_comm, eq_comm]

theorem setDutyCycle_mem_indCalls (n : Nat) (i : IndCmd) (c : Nat) (d : Duty) :
    ActuatorCall.setDutyCycle c d ∈ indCalls n i ↔ i = .duty d ∧ c < n := by
  cases i <;> simp [indCalls, blinkCall, and_comm, eq_comm]

theorem flash_not_mem_indCalls (n : Nat) (i : IndCmd) (k : Nat) : ActuatorCall.flash k ∉ indCalls n i := by
  cases i <;> simp [indCalls, blinkCall]

/-- Settles O57: a flash call comes from the flash field alone, every other call from the indicator command. -/
theorem actuatorCallsFollowRecord : Obligations.ActuatorCallsFollowRecord := by
  refine fun n o => ⟨fun c on => ?_, fun c d => ?_, fun h => ?_, fun k => ?_⟩
  · simp [actuatorCalls, mem_flashCalls, set_mem_indCalls]
  · simp [actuatorCalls, mem_flashCalls, setDutyCycle_mem_indCalls]
  · rcases h with h | h | h <;> exact ⟨_, _, congrArg (indCalls n) h⟩
  · simp [actuatorCalls, mem_flashCalls, flash_not_mem_indCalls]

end Sys2Proof.Machine
end

section
/-! PROOFS. The edge detector (40_edge_detector.md): EDGE channel by channel (R100), what a clock edge leaves in
`prev_mask`, and the memory of one tick that follows (R101). -/

namespace Sys2Proof.Machine

/-! ### EDGE (R100) -/

/-- Each channel is computed by itself: pressed now, and not in the stored mask. -/
theorem edge_getLsbD (m : Mask) (s : State) {k : Nat} (hk : k < 4) :
    (edge m s).1.getLsbD k = (m.getLsbD k && !s.prevMask.getLsbD k) := by
  simp [edge, hk]

/-- Settles O21: the bits of EDGE one by one, and its one write read off the definition. -/
theorem edgeReportsRisingChannels : Obligations.EdgeReportsRisingChannels :=
  fun m s => ⟨fun _ hk => edge_getLsbD m s hk, rfl⟩

/-! ### The mask kept from one tick to the next (R101) -/

/-- What a clock edge leaves in `prev_mask`, whatever operation it ran: `0000` after RESET, the mask of a valid tick,
and otherwise the mask that stood there (R36, R73). -/
theorem step_prevMask {s t : State} (h : step s = .next t) :
    t.prevMask =
      if (nextPins s).rst then 0b0000#4
      else if (nextPins s).tick && (nextPins s).sampleOk then (nextPins s).btn
      else s.prevMask := by
  rcases step_cases s with ⟨hr, he⟩ | ⟨hr, ht, he⟩ | ⟨⟨hr, ht, ho⟩, he⟩ | ⟨⟨hr, ht, ho⟩, _, he⟩ | ⟨⟨hr, ht, ho⟩, _, he⟩
  all_goals rw [he] at h
  case inl => obtain rfl := exec_next h; simp [hr]
  case inr.inl => obtain rfl := exec_next h; simp [hr, ht]
  all_goals
    obtain ⟨hmask, _⟩ := exec_keeps_sampling h (selected_ne_reset _ _ _)
    simp [hmask, hr, ht, ho]

/-- Against the reset mask every pressed channel is an edge (R100, corner case (d)). -/
theorem and_not_zeroMask (m : Mask) : m &&& ~~~0b0000#4 = m := BitVec.and_allOnes

/-- A valid tick puts the rising edges against `prev_mask` in the `e` field, in all four states (R102). -/
theorem fetch_validTick {q : Pins} (t : State) (hq : q.validTick) :
    ∃ f, (fetch q t).1 = .tick (mkSel t.state f (q.btn &&& ~~~t.prevMask)) := by
  obtain ⟨hr, ht, ho⟩ := hq
  rw [fetch_tick t hr ht]
  by_cases hst : t.state = .SB
  · rw [sample_standby ho hst, hst]
    exact ⟨false, rfl⟩
  · rw [sample_active ho hst]
    exact ⟨_, rfl⟩

/-- Settles O22: the second tick's edges are against what the first clock edge left in `prev_mask`. -/
theorem edgeHasMemoryOfOneTick : Obligations.EdgeHasMemoryOfOneTick := by
  intro s t p q rest hp h hq
  have hmask := step_prevMask h
  rw [nextPins_cons hp] at hmask
  obtain ⟨f, hf⟩ := fetch_validTick t hq
  rw [hmask] at hf
  refine ⟨fun ⟨hr, ht, ho⟩ => ⟨f, ?_⟩, fun hr => ⟨f, ?_⟩, fun ⟨hr, ht, ho⟩ => ⟨f, ?_⟩⟩
  · simpa [hr, ht, ho] using hf
  · simpa only [hr, if_true, and_not_zeroMask] using hf
  · simpa [hr, ht, ho] using hf

end Sys2Proof.Machine
end

section
/-! PROOFS. The hold gesture (41_hold_gesture_timer.md): HOLD_EVAL and its clock (R110, R111, R113), what a clock edge
leaves in `hold` (R112, R115), what enters SB, and a chord held still from its onset on (R114). -/

namespace Sys2Proof.Machine

/-! ### The chord (R111) -/

/-- Settles O24: the chord is a bitwise inclusion of CHORD_MASK in the mask. -/
theorem chordIgnoresOtherChannels : Obligations.ChordIgnoresOtherChannels := by
  intro pr m
  rw [chord_iff]
  constructor
  · intro h k _ hk
    have hbit := congrArg (·.getLsbD k) h
    simpa [hk] using hbit
  · intro h
    refine BitVec.eq_of_getLsbD_eq fun k hk => ?_
    rw [BitVec.getLsbD_and, Bool.and_eq_right_iff_imp]
    exact h k hk

/-! ### HOLD_EVAL, case by case (R110) -/

/-- With the chord absent the timer is cleared. -/
theorem holdNext_of_absent {m : Mask} {now : Nat} {s : State} (hc : chord s.params m = false) :
    holdNext m now s = none := by
  rw [holdNext, hc]; rfl

/-- The onset: the chord with no timer running starts one. -/
theorem holdNext_onset {m : Mask} {now : Nat} {s : State} (hc : chord s.params m = true) (hh : s.hold = none) :
    holdNext m now s = some now := by
  rw [holdNext, if_pos hc, hh]

/-- A running timer that is not due keeps its onset. -/
theorem holdNext_of_not_due {m : Mask} {now t0 : Nat} {s : State} (hc : chord s.params m = true)
    (hh : s.hold = some t0) (hd : holdDue s.params t0 now = false) : holdNext m now s = some t0 := by
  rw [holdNext, if_pos hc, hh]
  exact if_neg (by rw [hd]; decide)

/-- Without a running timer nothing fires: not the onset tick either (R110, corner case (a)). -/
theorem holdFires_of_no_timer {m : Mask} {now : Nat} {s : State} (hh : s.hold = none) :
    holdFires m now s = false := by
  rw [holdFires, hh]

/-- With the chord absent nothing fires. -/
theorem holdFires_of_absent {m : Mask} {now : Nat} {s : State} (hc : chord s.params m = false) :
    holdFires m now s = false := by
  rw [holdFires]
  cases s.hold
  · rfl
  · exact Bool.and_eq_false_imp.2 fun h => absurd (hc.symm.trans h) (by decide)

/-- With the chord held and a timer running, HOLD_EVAL fires exactly when the timer is due. -/
theorem holdFires_of_running {m : Mask} {now t0 : Nat} {s : State} (hc : chord s.params m = true)
    (hh : s.hold = some t0) : holdFires m now s = holdDue s.params t0 now := by
  rw [holdFires, hh]
  exact congrArg (· && _) hc

/-- Settles O23: the four cases, by what HOLD_EVAL returns and what it leaves in `hold`. -/
theorem holdEvalCases : Obligations.HoldEvalCases := by
  intro m now s
  refine ⟨fun hc => ?_, fun hc hh => ?_, fun t0 hc hh hlt => ?_, fun t0 hc hh hge => ?_⟩
  · rw [holdEval, holdFires_of_absent hc, holdNext_of_absent hc]
  · rw [holdEval, holdFires_of_no_timer hh, holdNext_onset hc hh]
  · have hd : holdDue s.params t0 now = false := decide_eq_false (Nat.not_le.2 hlt)
    rw [holdEval, holdFires_of_running hc hh, holdNext_of_not_due hc hh hd, hd, ← hh]
  · have hfire : holdFires m now s = true := (holdFires_of_running hc hh).trans (decide_eq_true hge)
    rw [holdEval, hfire, holdNext_of_fires hfire]

/-! ### The clock (R113) -/

/-- The difference of two instants read modulo `2 ^ w` is their true difference modulo `2 ^ w`. -/
theorem subMod_mod_mod (w : Nat) {a b : Nat} (h : a ≤ b) : subMod w (b % 2 ^ w) (a % 2 ^ w) = (b - a) % 2 ^ w := by
  have hlt : a % 2 ^ w < 2 ^ w := Nat.mod_lt _ (Nat.two_pow_pos w)
  have hdiv := Nat.div_add_mod a (2 ^ w)
  have hturns : b + (2 ^ w - a % 2 ^ w) = (b - a) + 2 ^ w * (a / 2 ^ w + 1) := by
    rw [Nat.mul_add_one]; omega
  rw [subMod, Nat.mod_mod, Nat.mod_add_mod, hturns, Nat.add_mul_mod_self_left]

/-- Settles O25: the two cases of the modular difference, and a whole number of turns that cancels. -/
theorem elapsedTimeIsModular : Obligations.ElapsedTimeIsModular := by
  refine fun w => ⟨fun now t hnow ht => ?_, fun a b hab hlt => ?_⟩
  · split_ifs with hle
    · exact subMod_of_le hnow hle
    · exact subMod_of_lt ht (Nat.not_le.1 hle)
  · rw [subMod_mod_mod w hab, Nat.mod_eq_of_lt hlt]

/-! ### What a clock edge leaves in `hold` (R112) -/

/-- The timer after a clock edge, whatever operation it ran: unset after RESET, what HOLD_EVAL leaves on a valid tick
outside SB, and otherwise the timer that stood there (R36, R73, R112). -/
theorem step_hold {s t : State} (h : step s = .next t) :
    t.hold =
      if (nextPins s).rst then none
      else if (nextPins s).tick && (nextPins s).sampleOk && s.state != .SB then
        holdNext (nextPins s).btn (sampleNow s.params (nextPins s)) s
      else s.hold := by
  rcases step_cases s with ⟨hr, he⟩ | ⟨hr, ht, he⟩ | ⟨⟨hr, ht, ho⟩, he⟩ | ⟨⟨hr, ht, ho⟩, hst, he⟩ |
    ⟨⟨hr, ht, ho⟩, hst, he⟩
  all_goals rw [he] at h
  case inl => obtain rfl := exec_next h; simp [hr]
  case inr.inl => obtain rfl := exec_next h; simp [hr, ht]
  all_goals
    obtain ⟨_, hhold⟩ := exec_keeps_sampling h (selected_ne_reset _ _ _)
    rw [hhold]
  · simp [hr, ho]
  · simp [hr, hst]
  · simp [hr, ht, ho, hst]

/-- A valid tick outside SB leaves in `hold` what HOLD_EVAL leaves there. -/
theorem step_hold_of_validTick {s t : State} (h : step s = .next t) (hv : (nextPins s).validTick)
    (hst : s.state ≠ .SB) : t.hold = holdNext (nextPins s).btn (sampleNow s.params (nextPins s)) s := by
  obtain ⟨hr, ht, ho⟩ := hv
  simpa [hr, ht, ho, hst] using step_hold h

/-- Settles O26: each of the three reasons takes the last branch of what a clock edge leaves in `hold`. -/
theorem holdTimerRunsOnlyOutsideStandby : Obligations.HoldTimerRunsOnlyOutsideStandby := by
  intro s t h hr hquiet
  have hhold := step_hold h
  rcases hquiet with ht | ho | hst
  · simpa [hr, ht] using hhold
  · simpa [hr, ho] using hhold
  · simpa [hr, hst] using hhold

/-! ### What enters SB (R114, R143, R195) -/

/-- The operation of a tick outside SB leads into SB exactly when the tick fires. -/
theorem exec_selected_enters_standby_iff {st : FsmState} {fire : Bool} {e : Mask} {s t : State}
    (h : exec (selected st fire e) s = .next t) (hs : s.state = st) (hst : st ≠ .SB) :
    t.state = .SB ↔ fire = true := by
  subst hs
  cases fire with
  | true =>
    rw [exec_selected_fire hst] at h
    cases h
    simp
  | false =>
    obtain ⟨hactive, _⟩ := exec_activeRow (selected_isActiveRow hst e) hst h
    simp [hactive]

/-- A clock edge outside SB leads into SB exactly when it is a valid tick on which HOLD_EVAL fires. -/
theorem step_enters_standby_iff {s t : State} (h : step s = .next t) (hst : s.state ≠ .SB) :
    t.state = .SB ↔
      (nextPins s).validTick ∧ holdFires (nextPins s).btn (sampleNow s.params (nextPins s)) s = true := by
  rcases step_cases s with ⟨hr, he⟩ | ⟨hr, ht, he⟩ | ⟨⟨_, _, ho⟩, he⟩ | ⟨_, hsb, _⟩ | ⟨hv, _, he⟩
  case inr.inr.inr.inl => exact absurd hsb hst
  all_goals rw [he] at h
  · obtain rfl := exec_next h
    simp [hr]
  · obtain rfl := exec_next h
    simp [hst, ht]
  · rw [exec_selected_enters_standby_iff h rfl hst]
    simp [ho]
  · rw [exec_selected_enters_standby_iff h rfl hst]
    exact (and_iff_right hv).symm

/-- Settles O31: the onset case of HOLD_EVAL, which does not fire. -/
theorem chordStillHeldRestartsTimer : Obligations.ChordStillHeldRestartsTimer := by
  intro s t hst hh hv hc h
  refine ⟨(step_hold_of_validTick h hv hst).trans (holdNext_onset hc hh), fun hsb => ?_⟩
  obtain ⟨_, hfire⟩ := (step_enters_standby_iff h hst).1 hsb
  rw [holdFires_of_no_timer hh] at hfire
  cases hfire

/-! ### A chord held still (R114, R233) -/

/-- CLEAR_CURRENT_BLOCK never moves the cursor up (R122). -/
theorem clearCurrentBlock_inputCount_le (s : State) : (clearCurrentBlock s).inputCount ≤ s.inputCount := by
  by_cases h0 : s.inputCount = 0
  · rw [clearCurrentBlock_zero h0]
  · obtain ⟨_, hle, _⟩ := currentBlockStart_spec s.inputCount
    rw [clearCurrentBlock_of_ne h0]
    exact hle.trans (Nat.sub_le _ _)

/-- INV1 is kept by every step on its own: no operation needs INV2 or INV3 to keep the cursor within the buffer. -/
theorem step_keeps_count_le {s t : State} (h : step s = .next t) (hs : s.inputCount ≤ s.params.capacity) :
    t.inputCount ≤ t.params.capacity := by
  obtain ⟨i, s', he, hp, _, hc, _⟩ := step_eq_exec s
  rw [he] at h
  obtain ⟨hp', _⟩ := exec_keeps_model h
  have hclear := clearCurrentBlock_inputCount_le s'
  rw [← hc, ← hp] at hs
  rw [hp']
  rcases exec_buffer_cases h with ⟨hc', _⟩ | ⟨_, hlt, hc', _⟩ | ⟨hc', _⟩ | ⟨hc', _⟩ <;> omega

/-- The mask `m` with the chord is held: it is the mask last stored, and the edges to come are ticks that show it or
failed reads. -/
structure Held (m : Mask) (s : State) : Prop where
  mask : s.prevMask = m
  present : chord s.params m = true
  /-- INV1. -/
  count_le : s.inputCount ≤ s.params.capacity
  ticks : ∀ p ∈ s.pending, p.anyTick ∧ (p.sampleOk = true → p.btn = m)

/-- A step that stores `m` leaves the chord held from there on, the remaining ticks permitting. -/
theorem Held.of_step {m : Mask} {s t : State} (h : step s = .next t) (hmask : t.prevMask = m)
    (hc : chord s.params m = true) (hcount : s.inputCount ≤ s.params.capacity)
    (hticks : ∀ p ∈ s.pending.tail, p.anyTick ∧ (p.sampleOk = true → p.btn = m)) : Held m t := by
  obtain ⟨hparams, hpending⟩ := stepKeepsParameters s t h
  exact ⟨hmask, by rw [hparams]; exact hc, step_keeps_count_le h hcount, by rw [hpending]; exact hticks⟩

/-- While the chord is held each step completes and it is still held: a tick stores `m` again, and a failed read
keeps it (R73). -/
theorem Held.step_held {m : Mask} {s : State} {p : Pins} {ps : List Pins} (hs : Held m s) (hp : s.pending = p :: ps) :
    ∃ t, step s = .next t ∧ Held m t ∧ t.pending = ps ∧ t.params = s.params := by
  obtain ⟨t, h⟩ := step_completes hs.count_le
  obtain ⟨hparams, hpending⟩ := stepKeepsParameters s t h
  obtain ⟨⟨hr, _⟩, hbtn⟩ := hs.ticks p (by simp [hp])
  have hmask : t.prevMask = m := by
    rw [step_prevMask h, nextPins_cons hp, hr, hs.mask]
    simp only [Bool.false_eq_true, if_false, Bool.and_eq_true]
    split_ifs with hv
    · exact hbtn hv.2
    · rfl
  have htail : ∀ q ∈ s.pending.tail, q.anyTick ∧ (q.sampleOk = true → q.btn = m) :=
    fun q hq => hs.ticks q (List.mem_of_mem_tail hq)
  exact ⟨t, h, .of_step h hmask hs.present hs.count_le htail, by rw [hpending, hp, List.tail_cons], hparams⟩

/-- The chord held in SB gives no edge, and only an edge leaves SB (R62, R164). -/
theorem Held.step_standby {m : Mask} {s t : State} {p : Pins} {ps : List Pins} (hs : Held m s)
    (hp : s.pending = p :: ps) (h : step s = .next t) (hsb : s.state = .SB) : t.state = .SB := by
  obtain ⟨⟨hr, _⟩, hbtn⟩ := hs.ticks p (by simp [hp])
  have hnext := nextPins_cons hp
  by_contra hne
  obtain ⟨⟨_, _, ho⟩, hedge | ⟨hst, _⟩⟩ :=
    stateChangesOnlyOnEdgeOrGesture s t h (by rw [hnext]; exact hr) (by rw [hsb]; exact hne)
  · rw [hnext] at ho hedge
    rw [hbtn ho, hs.mask] at hedge
    exact hedge (BitVec.and_not_self m)
  · exact hst hsb

/-- The chord held in SB, by recursion on the ticks to come: the block stays there. -/
theorem Held.run_standby {m : Mask} : ∀ (ps : List Pins) {s : State}, Held m s → s.pending = ps →
    s.state = .SB → ∃ t, run ps.length s = .next t ∧ t.state = .SB
  | [], s, _, _, hsb => ⟨s, run_zero s, hsb⟩
  | p :: ps, s, hs, hp, hsb => by
    obtain ⟨u, h, hu, hpu, _⟩ := hs.step_held hp
    obtain ⟨t, hrun, ht⟩ := hu.run_standby ps hpu (hs.step_standby hp h hsb)
    exact ⟨t, (run_succ ps.length h).trans hrun, ht⟩

/-- A tick on which a timer running since `t0` is due: a valid sample 3000 ms or more later (R110). -/
abbrev Pins.dueAfter (t0 : Nat) (p : Pins) : Prop := p.sampleOk = true ∧ 3000 ≤ p.nowMs - t0

/-- One tick of a chord held outside SB with a timer since `t0`, on a clock that neither goes back nor wraps: a due tick
leads into SB, and any other one leaves the timer as it was. -/
theorem Held.step_waiting {m : Mask} {t0 : Nat} {s t : State} {p : Pins} {ps : List Pins} (hs : Held m s)
    (hp : s.pending = p :: ps) (h : step s = .next t) (hst : s.state ≠ .SB) (hh : s.hold = some t0)
    (hle : t0 ≤ p.nowMs) (hlt : p.nowMs < 2 ^ s.params.timeW) :
    (t.state = .SB ↔ p.dueAfter t0) ∧ (¬ p.dueAfter t0 → t.hold = some t0) := by
  obtain ⟨⟨hr, ht⟩, hbtn⟩ := hs.ticks p (by simp [hp])
  have hnext := nextPins_cons hp
  have henter := step_enters_standby_iff h hst
  rw [hnext] at henter
  cases ho : p.sampleOk with
  | false =>
    have hkept := holdTimerRunsOnlyOutsideStandby s t h (hnext ▸ hr) (.inr (.inl (hnext ▸ ho)))
    exact ⟨henter.trans (by simp [Pins.validTick, Pins.dueAfter, ho]), fun _ => hkept.trans hh⟩
  | true =>
    have hv : p.validTick := ⟨hr, ht, ho⟩
    have hc : chord s.params p.btn = true := by rw [hbtn ho]; exact hs.present
    have hdue : holdDue s.params t0 (sampleNow s.params p) = true ↔ p.dueAfter t0 := by
      rw [holdDue_iff, sampleNow, Nat.mod_eq_of_lt hlt, subMod_of_le hlt hle, Pins.dueAfter, and_iff_right ho]
    rw [and_iff_right hv, holdFires_of_running hc hh, hdue] at henter
    refine ⟨henter, fun hnot => ?_⟩
    rw [step_hold_of_validTick h (hnext ▸ hv) hst, hnext]
    exact holdNext_of_not_due hc hh (Bool.eq_false_of_not_eq_true (mt hdue.1 hnot))

/-- The chord held outside SB with a timer since `t0`, by recursion on the ticks to come: the block is in SB at
the end exactly when some tick was due. -/
theorem Held.run_waiting {m : Mask} {t0 : Nat} : ∀ (ps : List Pins) {s : State}, Held m s → s.pending = ps →
    s.state ≠ .SB → s.hold = some t0 → (∀ p ∈ ps, t0 ≤ p.nowMs ∧ p.nowMs < 2 ^ s.params.timeW) →
    ∃ t, run ps.length s = .next t ∧ (t.state = .SB ↔ ∃ p ∈ ps, p.dueAfter t0)
  | [], s, _, _, hst, _, _ => ⟨s, run_zero s, by simp [hst]⟩
  | p :: ps, s, hs, hp, hst, hh, hclock => by
    obtain ⟨u, h, hu, hpu, hparams⟩ := hs.step_held hp
    obtain ⟨⟨hle, hlt⟩, hrest⟩ := List.forall_mem_cons.1 hclock
    obtain ⟨henter, hkept⟩ := hs.step_waiting hp h hst hh hle hlt
    by_cases hdue : p.dueAfter t0
    · obtain ⟨t, hrun, ht⟩ := hu.run_standby ps hpu (henter.2 hdue)
      exact ⟨t, (run_succ ps.length h).trans hrun, iff_of_true ht ⟨p, List.mem_cons_self, hdue⟩⟩
    · obtain ⟨t, hrun, ht⟩ := hu.run_waiting ps hpu (mt henter.1 hdue) (hkept hdue) (by rw [hparams]; exact hrest)
      refine ⟨t, (run_succ ps.length h).trans hrun, ht.trans ?_⟩
      rw [List.exists_mem_cons_iff, or_iff_right hdue]

/-- Settles O30: the onset tick starts the timer (O31) and stores the mask, and from there on the chord is held. -/
theorem heldChordFiresExactlyAtThreshold : Obligations.HeldChordFiresExactlyAtThreshold := by
  intro s p0 ps m hst hh hcount hc hp hv hbtn hticks hmono hrange
  have hnext := nextPins_cons hp
  obtain ⟨hafter, _⟩ := List.pairwise_cons.1 hmono
  obtain ⟨hlt0, hlt⟩ := List.forall_mem_cons.1 hrange
  obtain ⟨u, h⟩ := step_completes hcount
  obtain ⟨hparams, hpending⟩ := stepKeepsParameters s u h
  obtain ⟨hhold, hstu⟩ := chordStillHeldRestartsTimer s u hst hh (hnext ▸ hv) (by rw [hnext, hbtn]; exact hc) h
  rw [hnext, Nat.mod_eq_of_lt hlt0] at hhold
  have hmask : u.prevMask = m := by
    obtain ⟨hr, ht, ho⟩ := hv
    rw [step_prevMask h, hnext]
    simp [hr, ht, ho, hbtn]
  have hheld : Held m u := .of_step h hmask hc hcount (by rw [hp]; exact hticks)
  obtain ⟨t, hrun, ht⟩ := hheld.run_waiting ps (by rw [hpending, hp, List.tail_cons]) hstu hhold
    fun p hmem => ⟨hafter p hmem, by rw [hparams]; exact hlt p hmem⟩
  exact ⟨t, (run_succ ps.length h).trans hrun, ht⟩

end Sys2Proof.Machine
end

section
/-! PROOFS. The bit accumulator (42_bit_accumulator.md): PUSH (R120), CLEAR_BLOCK (R121), the current block (R122) and
PACK (R124, R52), and that bits pushed and packed come out in the order entered. -/

namespace Sys2Proof.Machine

/-! ### PUSH (R120) -/

/-- Settles O33: below CAPACITY the push is one write at the cursor. -/
theorem pushAppendsAtCursor : Obligations.PushAppendsAtCursor := by
  intro s b
  refine ⟨push_full b, fun hlt => ⟨_, push_of_lt b hlt, rfl, ?_, ?_, ⟨rfl, rfl⟩, ⟨rfl, rfl⟩, ⟨rfl, rfl⟩, ⟨rfl, rfl⟩,
    rfl⟩⟩
  · exact Memory.read_write_same ..
  · exact fun a ha => Memory.read_write_other _ _ ha

/-! ### CLEAR_BLOCK and the current block (R121, R122) -/

/-- Reading after CLEAR_BLOCK: unset in the 8 entries from `start` on that exist, elsewhere as before. -/
theorem read_clearBlock (start a : Nat) (s : State) :
    (clearBlock start s).buf.read a =
      if start ≤ a ∧ a < start + 8 ∧ a < s.params.capacity then .unset else s.buf.read a :=
  read_clearEntries ..

/-- Settles O34: the range of `read_clearBlock` is the clamped block. -/
theorem clearBlockClampsToBuffer : Obligations.ClearBlockClampsToBuffer := by
  intro start s
  refine ⟨fun a hle hlt hcap => ?_, fun a hout => ?_, rfl⟩
  · rw [read_clearBlock, if_pos ⟨hle, hlt, hcap⟩]
  · rw [read_clearBlock, if_neg hout]

/-- Settles O35: `currentBlockStart` is the start the rule computes. -/
theorem clearCurrentBlockRewindsCursor : Obligations.ClearCurrentBlockRewindsCursor :=
  fun s => ⟨clearCurrentBlock_zero, fun hpos =>
    ⟨clearCurrentBlock_of_ne (Nat.one_le_iff_ne_zero.1 hpos), currentBlockStart_spec s.inputCount⟩⟩

/-! ### INV1 to INV3 (R126) -/

theorem CursorInv.push {s t : State} {b ok : Bool} (hs : CursorInv s) (h : push b s = .ok (ok, t)) : CursorInv t := by
  rcases push_ok h with ⟨_, _, rfl⟩ | ⟨hlt, _, rfl⟩
  · exact hs
  · exact hs.of_pushed hlt rfl rfl rfl

/-- Settles O15: CLEAR_ALL and RESET leave an empty buffer with the cursor at 0. -/
theorem accumulatorKeepsCursorInvariants : Obligations.AccumulatorKeepsCursorInvariants :=
  fun _ => ⟨fun hs _ _ _ h => hs.push h, fun hs => hs.clearCurrentBlock, .of_empty rfl rfl, .of_empty rfl rfl⟩

/-! ### PACK (R124, R52) -/

/-- Byte `j` of the bytes PACK answers with. -/
theorem getD_packedBytes (m : Memory) {n j : Nat} (h : j < n) :
    ((List.range n).map (packByte m)).getD j 0#8 = packByte m j := by
  simp [List.getD, h]

/-- Settles O36: the premises of the three clauses tell apart the answers `pack_cases` lists, and a byte is read bit by
bit with `packByte_getLsbD`. -/
theorem packBytesMostSignificantFirst : Obligations.PackBytesMostSignificantFirst := by
  intro s
  rcases pack_cases s with ⟨hmis, hp⟩ | ⟨h8, hover, _⟩ | ⟨h8, _, hhole, hp⟩ | ⟨h8, _, hhole, hp⟩
  · exact ⟨fun _ => hp, fun h => absurd h hmis, fun h => absurd h hmis⟩
  · exact ⟨fun h => absurd h8 h, fun _ hle => absurd hle hover.not_ge, fun _ hle => absurd hle hover.not_ge⟩
  · obtain ⟨i, hi, hunset⟩ := (holeBelowCursor_iff s).1 hhole
    exact ⟨fun h => absurd h8 h, fun _ _ _ => hp, fun _ _ hset => absurd hunset (hset i hi)⟩
  · refine ⟨fun h => absurd h8 h, fun _ _ hex => ?_, fun _ _ _ => ⟨_, hp, by simp, fun j k hj hk => ?_⟩⟩
    · exact absurd ((holeBelowCursor_iff s).2 hex) (by simp [hhole])
    · rw [getD_packedBytes _ hj, packByte_getLsbD _ _ hk]

/-! ### Bits pushed and packed (R120, R124, R52) -/

/-- A list of bits that fits is pushed whole: entry `i` past the old cursor reads bit `i`, the entries before the old
cursor read as before. -/
theorem pushAll_of_le : ∀ (bits : List Bool) {s : State}, s.inputCount + bits.length ≤ s.params.capacity →
    ∃ t, pushAll bits s = .ok t ∧ t.params = s.params ∧ t.inputCount = s.inputCount + bits.length ∧
      (∀ a, a < s.inputCount → t.buf.read a = s.buf.read a) ∧
      ∀ i, i < bits.length → t.buf.read (s.inputCount + i) = Entry.ofBit (bits.getD i false)
  | [], s, _ => ⟨s, rfl, rfl, rfl, fun _ _ => rfl, fun i hi => absurd hi i.not_lt_zero⟩
  | b :: bits, s, hfit => by
    rw [List.length_cons] at hfit
    obtain ⟨u, hpush, hcount, hbit, hother, _, _, _, ⟨hparams, _⟩, _⟩ := (pushAppendsAtCursor s b).2 (by omega)
    obtain ⟨t, hall, htparams, htcount, hbefore, hbits⟩ := pushAll_of_le bits (s := u) (by rw [hparams, hcount]; omega)
    rw [hcount] at htcount hbefore hbits
    refine ⟨t, by rw [pushAll, hpush]; exact hall, htparams.trans hparams, ?_, fun a ha => ?_, fun i hi => ?_⟩
    · rw [htcount, List.length_cons]; omega
    · rw [hbefore a (by omega), hother a (by omega)]
    · cases i with
      | zero => rw [Nat.add_zero, hbefore _ (by omega), hbit, List.getD_cons_zero]
      | succ i =>
        rw [List.getD_cons_succ, ← hbits i (by simpa using hi)]
        congr 1
        omega

/-- Settles O37: after the pushes every entry below the cursor is set (`pushAll_of_le`), so PACK answers with bytes, and
entry `8 * (i / 8) + i % 8` is bit `i`. -/
theorem pushThenPackRoundTrip : Obligations.PushThenPackRoundTrip := by
  intro bits s h0 h8 hfit
  obtain ⟨t, hall, hparams, hcount, _, hbits⟩ := pushAll_of_le bits (s := s) (by omega)
  simp only [h0, Nat.zero_add] at hcount hbits
  have hset : ∀ i, i < t.inputCount → t.buf.read i ≠ .unset := fun i hi => by
    rw [hbits i (hcount ▸ hi)]; exact Entry.ofBit_ne_unset _
  obtain ⟨_, _, hpack⟩ := packBytesMostSignificantFirst t
  obtain ⟨bs, hbs, hlen, hbyte⟩ := hpack (by rw [hcount]; exact h8) (by rw [hcount, hparams]; exact hfit) hset
  rw [hcount] at hlen hbyte
  refine ⟨t, bs, hall, hbs, hlen, fun i hi => ?_⟩
  rw [hbyte (i / 8) (i % 8) (by omega) (Nat.mod_lt i (by decide)), Nat.div_add_mod, hbits i hi, Entry.ofBit_eq_one]

end Sys2Proof.Machine
end

section
/-! PROOFS. The controller (43_fsm_controller.md): the tick step (R140), the words of each row of the opcode map (R84),
and what each operation of P, S, F and SB, a failed read and NOTICK do (R143 to R164). -/

namespace Sys2Proof.Machine

/-! ### The tick step (R140) -/

/-- A tick runs the operation of the selector word that sampling forms, on the state that sampling leaves. -/
theorem step_of_tick {s : State} {p : Pins} {rest : List Pins} {i : Instr} (hp : s.pending = p :: rest)
    (hr : p.rst = false) (ht : p.tick = true) {w : Sel} {s' : State}
    (hs : sample p { s with pending := rest } = (w, s')) (hd : decode (.tick w) = .ok i) : step s = exec i s' := by
  refine step_of_fetch ?_ hd
  rw [nextPins_cons hp, hp, List.tail_cons, fetch_tick _ hr ht, hs]

/-- Settles O8, by the three things sampling can do: HOLD_EVAL and EDGE, EDGE alone, neither. -/
theorem tickFormsSelectorAndRunsIt : Obligations.TickFormsSelectorAndRunsIt := by
  intro s p rest i hp
  refine ⟨fun ⟨hr, ht, ho⟩ hst hd => ?_, fun ⟨hr, ht, ho⟩ hst hd => ?_, fun ⟨hr, ht, ho⟩ hd => ?_⟩
  · exact step_of_tick hp hr ht (sample_active (s := { s with pending := rest }) ho hst) hd
  · exact step_of_tick hp hr ht (sample_standby (s := { s with pending := rest }) ho hst) hd
  · exact step_of_tick hp hr ht (sample_failed { s with pending := rest } ho) hd

/-! ### The words of a row (R84) -/

/-- A word of a row decodes to that row's operation: the rows are disjoint, so the first match is the row (O3). -/
theorem decode_of_row {value mask w : Sel} (build : Mask → Instr) (hrow : ⟨value, mask, build⟩ ∈ selRows)
    (hw : w &&& mask = value) : decode (.tick w) = .ok (build (Sel.edgeField w)) := by
  have hmem : ⟨value, mask, build⟩ ∈ selRows.filter (selRowMatches w) :=
    List.mem_filter.2 ⟨hrow, beq_iff_eq.2 hw⟩
  have hformed : w &&& 0x70#7 ≠ 0x70#7 := fun h => by
    obtain ⟨hnone, _⟩ := selectorRowsDisjointAndCovering.2 w h
    exact List.ne_nil_of_mem hmem (List.eq_nil_of_length_eq_zero hnone)
  obtain ⟨_, hone⟩ := List.length_eq_one_iff.1 (selectorRowsDisjointAndCovering.1 w hformed)
  obtain rfl := List.mem_singleton.1 (hone ▸ hmem)
  have hfind : selRows.find? (selRowMatches w) = some ⟨value, mask, build⟩ := by
    rw [← List.head?_filter, hone]
    rfl
  simp only [decode, decodeSel, normalizeSel, if_neg hformed, hfind]

/-! ### Transitions, and an edge without a tick (R141, R142, R161) -/

/-- A transition into an active state sets the state and its pattern command, and writes nothing else (R141, R142). -/
theorem goTo_active {st : FsmState} (hst : st ≠ .SB) (s : State) :
    goTo st s = { s with state := st, out := { s.out with ind := entryPattern st } } := by
  cases st
  case SB => exact absurd rfl hst
  all_goals rfl

/-- Settles O20: the edge is NOTICK by `rst` and `tick` alone. -/
theorem notickChangesNothing : Obligations.NotickChangesNothing := by
  refine ⟨decode_ctrl_notick, fun s => rfl, fun s p rest hp hr ht => ?_⟩
  refine step_of_fetch (s' := { s with pending := rest }) ?_ decode_ctrl_notick
  rw [nextPins_cons hp, hp, List.tail_cons, fetch_notick _ hr ht]

/-! ### HOLD_FIRE and the idle operations (R143, R144, R149, R156) -/

/-- Settles O32: the three rows run one shared standby entry with the row's state. -/
theorem holdFireSavesStateAndEntersStandby : Obligations.HoldFireSavesStateAndEntersStandby := by
  refine ⟨fun w => decode_of_row .holdFireP (by simp [selRows]),
    fun w => decode_of_row .holdFireS (by simp [selRows]),
    fun w => decode_of_row .holdFireF (by simp [selRows]), fun s e st i hi => ?_⟩
  have hexec : exec i s = .next (enterStandby st (beginOp s)) := by
    rcases hi with ⟨rfl, rfl⟩ | ⟨rfl, rfl⟩ | ⟨rfl, rfl⟩ <;> rfl
  exact hexec

/-- Settles O38: an idle operation ends where it begins. -/
theorem idleOperationsChangeNothing : Obligations.IdleOperationsChangeNothing :=
  ⟨decode_mkSel .P false 0b0000#4, decode_mkSel .S false 0b0000#4,
    fun _ => decode_of_row .fIdle (by simp [selRows]),
    fun _ => ⟨rfl, rfl, fun _ => rfl⟩⟩

/-! ### The pushes (R145, R146, R152, R153) -/

theorem pushInPrimary_full (b : Bool) {s : State} (h : s.inputCount = s.params.capacity) :
    pushInPrimary b s = .next (beginOp s) := by
  rw [pushInPrimary, push_full b (s := beginOp s) h]

theorem pushInPrimary_of_lt (b : Bool) {s : State} (h : s.inputCount < s.params.capacity) :
    pushInPrimary b s = .next (emitFlash b (pushed b s)) := by
  rw [pushInPrimary, push_beginOp b h]

theorem pushInSecondary_full (b : Bool) {s : State} (h : s.inputCount = s.params.capacity) :
    pushInSecondary b s = .next (beginOp s) := by
  rw [pushInSecondary, push_full b (s := beginOp s) h]

theorem pushInSecondary_of_lt (b : Bool) {s : State} (h : s.inputCount < s.params.capacity) :
    pushInSecondary b s = .next (goTo .P (emitFlash b (pushed b s))) := by
  rw [pushInSecondary, push_beginOp b h]

/-- After a push the entry at the old cursor reads the bit, every other entry as before. -/
theorem read_pushed (b : Bool) (s : State) :
    (pushed b s).buf.read s.inputCount = Entry.ofBit b ∧
      ∀ a, a ≠ s.inputCount → (pushed b s).buf.read a = s.buf.read a :=
  ⟨Memory.read_write_same .., fun _ ha => Memory.read_write_other _ _ ha⟩

/-- Settles O39: both operations are the push in P, of 0 and of 1. -/
theorem primaryPushAppendsAndFlashes : Obligations.PrimaryPushAppendsAndFlashes := by
  refine ⟨fun w => decode_of_row .pPush0 (by simp [selRows]),
    fun w => decode_of_row .pPush1 (by simp [selRows]), fun s e b i hi => ?_⟩
  have hexec : exec i s = pushInPrimary b s := by rcases hi with ⟨rfl, rfl⟩ | ⟨rfl, rfl⟩ <;> rfl
  obtain ⟨hbit, hother⟩ := read_pushed b s
  rw [hexec]
  exact ⟨pushInPrimary_full b, fun hlt => ⟨_, pushInPrimary_of_lt b hlt, rfl, hbit, hother, rfl, ⟨rfl, rfl⟩,
    ⟨rfl, rfl⟩, ⟨rfl, rfl⟩, ⟨rfl, rfl⟩⟩⟩

/-- Settles O42: both operations are the push in S, of 0 and of 1. -/
theorem secondaryPushReturnsToPrimary : Obligations.SecondaryPushReturnsToPrimary := by
  refine ⟨fun w => decode_of_row .sPush0 (by simp [selRows]),
    fun w => decode_of_row .sPush1 (by simp [selRows]), fun s e b i hi => ?_⟩
  have hexec : exec i s = pushInSecondary b s := by rcases hi with ⟨rfl, rfl⟩ | ⟨rfl, rfl⟩ <;> rfl
  obtain ⟨hbit, hother⟩ := read_pushed b s
  rw [hexec]
  exact ⟨pushInSecondary_full b, fun hlt => ⟨_, pushInSecondary_of_lt b hlt, rfl, hbit, hother, rfl, rfl, rfl,
    ⟨rfl, rfl⟩, ⟨rfl, rfl⟩, ⟨rfl, rfl⟩⟩⟩

/-! ### The clears and the advances (R147, R148, R154, R155, R157) -/

/-- Settles O40: P_CLRBLK is CLEAR_CURRENT_BLOCK under an idle record, and O34 says how the cleared block reads. -/
theorem primaryClearBlockRewinds : Obligations.PrimaryClearBlockRewinds := by
  refine ⟨fun w => decode_of_row .pClrblk (by simp [selRows]), fun s e => ?_⟩
  have hexec : exec (.pClrblk e) s = .next (beginOp (clearCurrentBlock s)) :=
    congrArg Host.Outcome.next (clearCurrentBlock_beginOp s)
  rw [hexec]
  refine ⟨fun h0 => by rw [clearCurrentBlock_zero h0]; rfl, fun hpos => ⟨_, rfl, ?_⟩⟩
  obtain ⟨hclear, hkeep, _⟩ := clearBlockClampsToBuffer (currentBlockStart s.inputCount) s
  rw [clearCurrentBlock_of_ne (Nat.one_le_iff_ne_zero.1 hpos)]
  exact ⟨rfl, hclear, hkeep, rfl, ⟨rfl, rfl⟩, ⟨rfl, rfl⟩, ⟨rfl, rfl⟩, ⟨rfl, rfl⟩⟩

/-- Settles O41: an advance is one transition. -/
theorem advanceMovesToNextState : Obligations.AdvanceMovesToNextState :=
  ⟨decode_mkSel .P false 0b1000#4, decode_mkSel .S false 0b1000#4,
    fun s => ⟨congrArg Host.Outcome.next (goTo_active (st := .S) (by decide) (beginOp s)),
      congrArg Host.Outcome.next (goTo_active (st := .F) (by decide) (beginOp s))⟩⟩

/-- Settles O43: in S and in F it is CLEAR_ALL and the transition to P. -/
theorem clearAllReturnsToPrimary : Obligations.ClearAllReturnsToPrimary := by
  refine ⟨fun w => decode_of_row .sClrall (by simp [selRows]),
    fun w => decode_of_row .fClrall (by simp [selRows]), fun s e i hi => ?_⟩
  have hexec : exec i s = .next (goTo .P (clearAll (beginOp s))) := by rcases hi with rfl | rfl <;> rfl
  exact ⟨_, hexec, Memory.read_nil, rfl, rfl, rfl, rfl, ⟨rfl, rfl⟩, ⟨rfl, rfl⟩, ⟨rfl, rfl⟩⟩

/-! ### F_PACK (R158) -/

/-- Settles O44: F_PACK follows what PACK answers, and O36 says what that is. -/
theorem finalizePackReportsOrPresents : Obligations.FinalizePackReportsOrPresents := by
  refine ⟨fun w => decode_of_row .fPack (by simp [selRows]), fun s e => ?_⟩
  have hexec : exec (.fPack e) s = _ := execFPack_eq e s
  obtain ⟨hmis, hhole, hbytes⟩ := packBytesMostSignificantFirst s
  refine ⟨fun h8 => ?_, fun h8 hcap hex => ?_, fun h8 hcap hset => ?_⟩
  · rw [hexec, hmis h8]
    rfl
  · rw [hexec, hhole h8 hcap hex]
    rfl
  · obtain ⟨bs, hpack, hlen, hbit⟩ := hbytes h8 hcap hset
    refine ⟨bs, hpack, hlen, hbit, ?_⟩
    rw [hexec, hpack]
    rfl

/-! ### Standby (R159, R160) -/

/-- Settles O46: the four rows run one shared return, and the saved state is an active one. -/
theorem standbyWakeResumesSavedState : Obligations.StandbyWakeResumesSavedState := by
  refine ⟨fun w => decode_of_row .sbWake0 (by simp [selRows]),
    fun w => decode_of_row .sbWake1 (by simp [selRows]),
    fun w => decode_of_row .sbWake2 (by simp [selRows]),
    decode_mkSel .SB false 0b1000#4, fun s e i hlast hi => ?_⟩
  have hexec : exec i s = .next (leaveStandby (beginOp s)) := by rcases hi with rfl | rfl | rfl | rfl <;> rfl
  rw [hexec, leaveStandby, beginOp_lastActiveState, goTo_active hlast]
  rfl

/-- RAMP_STEP does not read the output record. -/
theorem rampStep_beginOp (s : State) : rampStep (beginOp s) = beginOp (rampStep s) := by
  simp only [rampStep, apply_ite beginOp]
  rfl

/-- The seven bits of a duty hold every number below 128 (R27). -/
theorem toNat_ofNat_duty {n : Nat} (h : n < 128) : (BitVec.ofNat 7 n).toNat = n :=
  Nat.mod_eq_of_lt h

/-- RAMP_STEP going up: 5 more, at most 100, and upwards still below it (R180). -/
theorem rampStep_up {s : State} (hup : s.rampUp = true) :
    (rampStep s).dutyCycle.toNat = min 100 (s.dutyCycle.toNat + 5) ∧
      (rampStep s).rampUp = decide (s.dutyCycle.toNat + 5 < 100) := by
  rcases rampStep_cases s with ⟨_, hd, h⟩ | ⟨_, hd, h⟩ | ⟨hdown, _⟩ | ⟨hdown, _⟩
  · rw [h, Nat.min_eq_left (by omega)]
    exact ⟨rfl, (decide_eq_false (by omega)).symm⟩
  · rw [h, Nat.min_eq_right (by omega)]
    exact ⟨toNat_ofNat_duty (by omega), hup.trans (decide_eq_true (by omega)).symm⟩
  all_goals cases hup.symm.trans hdown

/-- RAMP_STEP going down: 5 less, at least 0, and upwards from there on (R180). -/
theorem rampStep_down {s : State} (hdown : s.rampUp = false) :
    (rampStep s).dutyCycle.toNat = s.dutyCycle.toNat - 5 ∧
      (rampStep s).rampUp = decide (s.dutyCycle.toNat ≤ 5) := by
  rcases rampStep_cases s with ⟨hup, _⟩ | ⟨hup, _⟩ | ⟨_, hd, h⟩ | ⟨_, hd, h⟩
  case inr.inr.inl =>
    rw [h, Nat.sub_eq_zero_of_le hd]
    exact ⟨rfl, (decide_eq_true hd).symm⟩
  case inr.inr.inr =>
    have hlt : s.dutyCycle.toNat - 5 < 128 := (Nat.sub_le _ _).trans_lt s.dutyCycle.isLt
    rw [h]
    exact ⟨toNat_ofNat_duty hlt, hdown.trans (decide_eq_false (Nat.not_le.2 hd)).symm⟩
  all_goals cases hdown.symm.trans hup

/-- SB_RAMP is one RAMP_STEP, and IND_DUTY with the new value on an otherwise idle record (R160). -/
theorem exec_sbRamp (s : State) :
    exec .sbRamp s = .next
      { rampStep s with out := { Output.idle with ind := .duty (rampStep s).dutyCycle } } :=
  congrArg (fun u : State => Host.Outcome.next (emitInd (.duty u.dutyCycle) u)) (rampStep_beginOp s)

/-- Settles O48: the new value by the direction, the frame by what RAMP_STEP leaves alone. -/
theorem standbyRampAppliesNewDuty : Obligations.StandbyRampAppliesNewDuty :=
  ⟨decode_mkSel .SB false 0b0000#4, fun s => ⟨_, exec_sbRamp s, rfl, rampStep_up, rampStep_down,
    ⟨rampStep_prevMask s, rampStep_hold s⟩,
    ⟨rampStep_inputCount s, fun a => congrArg (Memory.read · a) (rampStep_buf s)⟩,
    ⟨rampStep_state s, rampStep_lastActiveState s⟩, ⟨rampStep_params s, rampStep_pending s⟩⟩⟩

/-! ### A failed read (R164) -/

/-- A tick without an edge and without `fire` keeps all but the ramp, and outside SB the ramp too, with an idle
record (R144, R149, R156, R160). -/
theorem exec_selected_quiet (s : State) :
    ∃ t, exec (selected s.state false 0b0000#4) s = .next t ∧ sameSampling s t ∧ sameControl s t ∧
      sameBuffer s t ∧ (s.state ≠ .SB → sameRamp s t ∧ t.out = Output.idle) := by
  by_cases hst : s.state = .SB
  · obtain ⟨_, hramp⟩ := standbyRampAppliesNewDuty
    obtain ⟨t, h, _, _, _, hsampling, hbuffer, hcontrol, _⟩ := hramp s
    rw [hst]
    exact ⟨t, h, hsampling, hcontrol, hbuffer, fun hne => absurd rfl hne⟩
  · have hidle : exec (selected s.state false 0b0000#4) s = .next (beginOp s) := by
      cases hs : s.state
      case SB => exact absurd hs hst
      all_goals rfl
    exact ⟨_, hidle, ⟨rfl, rfl⟩, ⟨rfl, rfl⟩, ⟨rfl, fun _ => rfl⟩, fun _ => ⟨⟨rfl, rfl⟩, rfl⟩⟩

/-- Settles O51: the word of a failed tick is that of the state with no fire and no edge, where R85 chooses the idle
row or SB_RAMP. -/
theorem failedReadIsNoEdge : Obligations.FailedReadIsNoEdge := by
  rintro s p rest hp ⟨hr, ht, ho⟩
  have hstep : step s = exec (selected s.state false 0b0000#4) { s with pending := rest } :=
    step_of_tick hp hr ht (sample_failed { s with pending := rest } ho) (decode_mkSel _ _ _)
  refine ⟨by rw [fetch_tick s hr ht, sample_failed s ho], fun hst => ?_, fun hst => ?_, fun hst => ?_,
    fun hst => ?_, ?_⟩
  · rw [hstep, hst]; rfl
  · rw [hstep, hst]; rfl
  · rw [hstep, hst]; rfl
  · rw [hstep, hst]; rfl
  · rw [hstep]
    exact exec_selected_quiet { s with pending := rest }

end Sys2Proof.Machine
end

section
/-! PROOFS. The duty ramp (44_duty_ramp.md): RAMP_STEP at and between its bounds (R180), and the breathing sequence of
the quiet standby ticks, a triangle of period 40 (R181). -/

namespace Sys2Proof.Machine

/-! ### RAMP_STEP, an equation per case (R180) -/

theorem rampStep_of_up_top {s : State} (hup : s.rampUp = true) (hd : 100 ≤ s.dutyCycle.toNat + 5) :
    rampStep s = { s with dutyCycle := 100#7, rampUp := false } := by
  rw [rampStep, if_pos hup, if_pos hd]

theorem rampStep_of_up_below {s : State} (hup : s.rampUp = true) (hd : s.dutyCycle.toNat + 5 < 100) :
    rampStep s = { s with dutyCycle := BitVec.ofNat 7 (s.dutyCycle.toNat + 5) } := by
  rw [rampStep, if_pos hup, if_neg hd.not_ge]

theorem rampStep_of_down_bottom {s : State} (hdown : s.rampUp = false) (hd : s.dutyCycle.toNat ≤ 5) :
    rampStep s = { s with dutyCycle := 0#7, rampUp := true } := by
  rw [rampStep, if_neg (Bool.eq_false_iff.1 hdown), Nat.zero_add, if_pos hd]

theorem rampStep_of_down_above {s : State} (hdown : s.rampUp = false) (hd : 5 < s.dutyCycle.toNat) :
    rampStep s = { s with dutyCycle := BitVec.ofNat 7 (s.dutyCycle.toNat - 5) } := by
  rw [rampStep, if_neg (Bool.eq_false_iff.1 hdown), Nat.zero_add, if_neg hd.not_ge]

/-- Settles O47: the four equations, and between the bounds the new value has room in seven bits. -/
theorem rampStepClampsThenReverses : Obligations.RampStepClampsThenReverses := by
  intro s
  have hwidth := s.dutyCycle.isLt
  refine ⟨rampStep_of_up_top, fun hup hd => ⟨_, rampStep_of_up_below hup hd, rfl, toNat_ofNat_duty (by omega)⟩,
    rampStep_of_down_bottom, fun hdown hd => ⟨_, rampStep_of_down_above hdown hd, rfl, ?_⟩⟩
  calc (BitVec.ofNat 7 (s.dutyCycle.toNat - 5)).toNat + 5
      = s.dutyCycle.toNat - 5 + 5 := by rw [toNat_ofNat_duty (by omega)]
    _ = s.dutyCycle.toNat := Nat.sub_add_cancel hd.le

/-! ### The triangle (R181) -/

/-- In the first half of the period the triangle climbs by 5, and the half ends when 100 is reached. -/
theorem dutyAfter_succ_of_climbing {n : Nat} (h : n % 40 < 20) :
    dutyAfter (n + 1) = min 100 (dutyAfter n + 5) ∧ ((n + 1) % 40 < 20 ↔ dutyAfter n + 5 < 100) := by
  have hmod : (n + 1) % 40 = n % 40 + 1 := by omega
  rw [dutyAfter, dutyAfter, hmod, if_pos (by omega), if_pos (by omega)]
  omega

/-- In the second half of the period the triangle falls by 5, and the half ends when 0 is reached. -/
theorem dutyAfter_succ_of_falling {n : Nat} (h : ¬ n % 40 < 20) :
    dutyAfter (n + 1) = dutyAfter n - 5 ∧ ((n + 1) % 40 < 20 ↔ dutyAfter n ≤ 5) := by
  unfold dutyAfter
  split_ifs <;> omega

/-- The ramp stands `n` quiet ticks after standby entry: its value is on the triangle, its direction that of the half
of the period (R181). -/
structure RampAt (n : Nat) (s : State) : Prop where
  duty : s.dutyCycle.toNat = dutyAfter n
  up : s.rampUp = decide (n % 40 < 20)

/-- RAMP_STEP moves the ramp one place along the triangle. -/
theorem RampAt.rampStep {n : Nat} {s : State} (h : RampAt n s) : RampAt (n + 1) (rampStep s) := by
  by_cases hn : n % 40 < 20
  · obtain ⟨hduty, hup⟩ := rampStep_up (h.up.trans (decide_eq_true hn))
    obtain ⟨hnext, hhalf⟩ := dutyAfter_succ_of_climbing hn
    exact ⟨by rw [hduty, h.duty, hnext], by rw [hup, h.duty, decide_eq_decide, hhalf]⟩
  · obtain ⟨hduty, hup⟩ := rampStep_down (h.up.trans (decide_eq_false hn))
    obtain ⟨hnext, hhalf⟩ := dutyAfter_succ_of_falling hn
    exact ⟨by rw [hduty, h.duty, hnext], by rw [hup, h.duty, decide_eq_decide, hhalf]⟩

/-! ### The quiet standby ticks (R160, R164, R181) -/

/-- In SB a failed read, or a sample without a rising edge, forms the word of SB_RAMP; only EDGE stores (R100, R112). -/
theorem sample_quiet_standby {p : Pins} {s : State} (hst : s.state = .SB)
    (hquiet : p.sampleOk = true → p.btn &&& ~~~s.prevMask = 0b0000#4) :
    sample p s = (mkSel .SB false 0b0000#4, { s with prevMask := if p.sampleOk then p.btn else s.prevMask }) := by
  cases ho : p.sampleOk with
  | false => rw [sample_failed s ho, ← hst]; rfl
  | true => rw [sample_standby ho hst, hquiet ho]; rfl

/-- The block in SB, `n` quiet ticks after standby entry, with only quiet ticks to come. -/
structure Breathing (n : Nat) (s : State) : Prop where
  standby : s.state = .SB
  ramp : RampAt n s
  quiet : quietFrom s.prevMask s.pending

/-- A quiet tick in SB runs SB_RAMP, the mask stored such that the rest stays quiet. -/
theorem Breathing.step_eq {n : Nat} {s : State} {p : Pins} {ps : List Pins} (hs : Breathing n s)
    (hp : s.pending = p :: ps) :
    ∃ m, step s = exec .sbRamp { s with pending := ps, prevMask := m } ∧ quietFrom m ps := by
  obtain ⟨hst, _, hquiet⟩ := hs
  rw [hp] at hquiet
  obtain ⟨⟨hr, ht⟩, hedge, hrest⟩ := hquiet
  exact ⟨_, step_of_tick hp hr ht (sample_quiet_standby (s := { s with pending := ps }) hst hedge)
    (decode_mkSel _ _ _), hrest⟩

/-- A quiet tick in SB moves one place along the triangle and keeps the saved state and the buffer (R160). -/
theorem Breathing.step_next {n : Nat} {s : State} {p : Pins} {ps : List Pins} (hs : Breathing n s)
    (hp : s.pending = p :: ps) :
    ∃ t, step s = .next t ∧ Breathing (n + 1) t ∧ t.pending = ps ∧ t.lastActiveState = s.lastActiveState ∧
      sameBuffer s t := by
  obtain ⟨m, hstep, hrest⟩ := hs.step_eq hp
  obtain ⟨hst, ⟨hduty, hup⟩, _⟩ := hs
  obtain ⟨hduty', hup'⟩ := RampAt.rampStep (s := { s with pending := ps, prevMask := m }) ⟨hduty, hup⟩
  refine ⟨_, hstep.trans (exec_sbRamp _), ⟨(rampStep_state _).trans hst, ⟨hduty', hup'⟩, ?_⟩, rampStep_pending _,
    rampStep_lastActiveState _, rampStep_inputCount _, fun a => congrArg (Memory.read · a) (rampStep_buf _)⟩
  simpa using hrest

/-- Quiet ticks in SB, by recursion on the ticks to come. -/
theorem Breathing.run_next : ∀ (ps : List Pins) {n : Nat} {s : State}, Breathing n s → s.pending = ps →
    ∃ t, run ps.length s = .next t ∧ Breathing (n + ps.length) t ∧ t.lastActiveState = s.lastActiveState ∧
      sameBuffer s t
  | [], _, s, hs, _ => ⟨s, run_zero s, hs, rfl, rfl, fun _ => rfl⟩
  | p :: ps, n, s, hs, hp => by
    obtain ⟨u, h, hu, hpu, hlastu, hcountu, hbufu⟩ := hs.step_next hp
    obtain ⟨t, hrun, ht, hlast, hcount, hbuf⟩ := hu.run_next ps hpu
    refine ⟨t, (run_succ ps.length h).trans hrun, ?_, hlast.trans hlastu, hcount.trans hcountu,
      fun a => (hbuf a).trans (hbufu a)⟩
    rwa [List.length_cons, Nat.add_comm ps.length 1, ← Nat.add_assoc]

/-- Settles O49: standby entry is place 0 of the triangle, and each quiet tick moves one place along it. -/
theorem rampSequenceIsTriangle : Obligations.RampSequenceIsTriangle := by
  intro ps s hst hd hup hp hquiet
  have hs : Breathing 0 s := ⟨hst, ⟨by rw [hd]; rfl, hup⟩, hp ▸ hquiet⟩
  obtain ⟨t, hrun, ⟨hstt, hramp, _⟩, hlast, hbuf⟩ := hs.run_next ps hp
  rw [Nat.zero_add] at hramp
  exact ⟨t, hrun, hstt, hramp.duty, hramp.up, hlast, hbuf⟩

end Sys2Proof.Machine
end

section
/-! PROOFS. Errors, the hold gesture as a trap and its return (60_exceptions.md): completion (R190), standby entry
(R195, R197), standby return (R198, R205) and the error reports of F_PACK (R192, R193). -/

namespace Sys2Proof.Machine

/-- Settles O11: an access past CAPACITY is the only fault, and a cursor within the buffer excludes it (R58). -/
theorem stepCompletesWithinCapacity : Obligations.StepCompletesWithinCapacity :=
  fun _ => step_completes

/-- A valid tick is one of the samples listed: an edge past their end has no tick. -/
theorem pending_of_validTick {s : State} (hv : (nextPins s).validTick) :
    s.pending = nextPins s :: s.pending.tail := by
  cases hp : s.pending with
  | nil =>
    rw [nextPins, takePins_nil hp] at hv
    obtain ⟨_, ht, _⟩ := hv
    cases ht
  | cons p rest => rw [nextPins_cons hp, List.tail_cons]

/-! ### Standby entry (R195, R197) -/

/-- A valid tick outside SB on which HOLD_EVAL fires enters standby, whatever edges it has, with the mask stored and
the timer cleared. -/
theorem step_of_fires {s : State} (hv : (nextPins s).validTick) (hst : s.state ≠ .SB)
    (hfire : holdFires (nextPins s).btn (sampleNow s.params (nextPins s)) s = true) :
    step s = .next (enterStandby s.state
      (beginOp { s with pending := s.pending.tail, prevMask := (nextPins s).btn, hold := none })) := by
  obtain ⟨hactive, _⟩ := tickFormsSelectorAndRunsIt s _ _ _ (pending_of_validTick hv)
  rw [hactive hv hst (decode_mkSel _ _ _), holdEval, hfire, holdNext_of_fires hfire]
  exact exec_selected_fire (s := { s with pending := _, prevMask := _, hold := none }) hst _

/-- Settles O27: the due timer makes HOLD_EVAL fire. -/
theorem dueGestureEntersStandby : Obligations.DueGestureEntersStandby := by
  intro s p rest t0 hp hv hst hc hh hdue
  have hn : nextPins s = p := nextPins_cons hp
  have hfire : holdFires p.btn (sampleNow s.params p) s = true :=
    (holdFires_iff _ _ _).2 ⟨t0, hh, hc, (holdDue_iff _ _ _).2 hdue⟩
  rw [step_of_fires (hn ▸ hv) hst (hn ▸ hfire), hn, hp]
  rfl

/-- Settles O28: what leads into SB is a valid tick that fires, and such a tick is standby entry and nothing else. -/
theorem standbyEnteredOnlyByDueGesture : Obligations.StandbyEnteredOnlyByDueGesture := by
  intro s t hst h hsb
  obtain ⟨hv, hfire⟩ := (step_enters_standby_iff h hst).1 hsb
  obtain ⟨t0, hh, hc, hdue⟩ := (holdFires_iff _ _ _).1 hfire
  rw [step_of_fires hv hst hfire] at h
  cases h
  exact ⟨hv, hc, ⟨t0, hh, (holdDue_iff _ _ _).1 hdue⟩, rfl, rfl, rfl, fun _ => rfl⟩

/-! ### Standby return (R198, R205) -/

/-- Any edge in SB wakes the block: some channel has one, and the row of each channel is SB_WAKE (R159). -/
theorem exec_selected_wake {e : Mask} (he : e ≠ 0b0000#4) (fire : Bool) (s : State) :
    exec (selected .SB fire e) s = .next (leaveStandby (beginOp s)) := by
  simp only [selected]
  split_ifs with h0 h1 h2 h3
  case neg => exact absurd ((mask_of_low_clear h0 h1 h2).trans (if_neg h3)) he
  all_goals rfl

/-- A valid tick in SB with a rising edge is the return from standby, with the mask stored. -/
theorem step_of_wake {s : State} (hv : (nextPins s).validTick) (hst : s.state = .SB)
    (hedge : (nextPins s).btn &&& ~~~s.prevMask ≠ 0b0000#4) :
    step s = .next (leaveStandby (beginOp { s with pending := s.pending.tail, prevMask := (nextPins s).btn })) := by
  obtain ⟨_, hstandby, _⟩ := tickFormsSelectorAndRunsIt s _ _ _ (pending_of_validTick hv)
  rw [hstandby hv hst (decode_mkSel _ _ _)]
  exact exec_selected_wake hedge _ _

/-- In SB an edge without RESET is NOTICK, a ramp step or the return from standby; of the sampled elements it writes
`prev_mask` at most (R112). -/
theorem step_standby_cases {s t : State} (hst : s.state = .SB) (hr : (nextPins s).rst = false) (h : step s = .next t) :
    ∃ m u, u = beginOp { s with pending := s.pending.tail, prevMask := m } ∧
      (t = u ∨ t = emitInd (.duty (rampStep u).dutyCycle) (rampStep u) ∨ t = leaveStandby u) := by
  rcases step_cases s with ⟨hr', _⟩ | ⟨_, _, he⟩ | ⟨_, he⟩ | ⟨_, _, he⟩ | ⟨_, hne, _⟩
  case inl => cases hr.symm.trans hr'
  case inr.inr.inr.inr => exact absurd hst hne
  all_goals rw [he] at h
  · exact ⟨s.prevMask, _, rfl, .inl (exec_next h)⟩
  · rw [congrArg (selected · false 0b0000#4) hst] at h
    exact ⟨s.prevMask, _, rfl, .inr (exec_selected_standby h)⟩
  · exact ⟨_, _, rfl, .inr (exec_selected_standby h)⟩

/-- Settles O50: the control state changes on an edge of a valid tick alone, such a tick is the return, and neither the
return nor a ramp step writes the buffer, the saved state or the timer. -/
theorem standbyLeftOnlyByEdge : Obligations.StandbyLeftOnlyByEdge := by
  intro s t hst hr h
  refine ⟨fun hne => ?_, fun hv hedge => ?_, ?_⟩
  · obtain ⟨hv, hedge | ⟨hactive, _⟩⟩ := stateChangesOnlyOnEdgeOrGesture s t h hr (hst ▸ hne)
    · exact ⟨hv, hedge⟩
    · exact absurd hst hactive
  · rw [step_of_wake hv hst hedge] at h
    cases h
    exact ⟨leaveStandby_state _, leaveStandby_dutyCycle _⟩
  · obtain ⟨m, u, rfl, rfl | rfl | rfl⟩ := step_standby_cases hst hr h
    · exact ⟨rfl, rfl, rfl, rfl⟩
    · simp
    · simp

/-! ### Error reports (R190, R192, R193) -/

@[simp] theorem goTo_out_err (t : FsmState) (s : State) : (goTo t s).out.err = s.out.err := by
  cases t <;> rfl

@[simp] theorem leaveStandby_out_err (s : State) : (leaveStandby s).out.err = s.out.err := by
  simp [leaveStandby]

/-- Only F_PACK reports an error: the recovery to P with the error that PACK found (R158, R190). -/
theorem exec_err_cases {i : Instr} {s t : State} (h : exec i s = .next t) (herr : t.out.err ≠ .none) :
    (∃ e, i = .fPack e) ∧
      ((s.inputCount % 8 ≠ 0 ∧ t = recoverToPrimary .misaligned (beginOp s)) ∨
        (s.inputCount % 8 = 0 ∧ holeBelowCursor s = true ∧ t = recoverToPrimary .invariantViolated (beginOp s))) := by
  have he := exec_next h
  cases i
  case fPack e =>
    refine ⟨⟨e, rfl⟩, ?_⟩
    rcases he with hmis | ⟨h8, _, hhole, rfl⟩ | ⟨_, _, _, rfl⟩
    · exact .inl hmis
    · exact .inr ⟨h8, hhole, rfl⟩
    · exact absurd rfl herr
  case pPush0 | pPush1 | sPush0 | sPush1 => rcases he with ⟨_, rfl⟩ | ⟨_, rfl⟩ <;> exact absurd rfl herr
  all_goals obtain rfl := he; exact absurd (by simp [Output.idle]) herr

/-- F_PACK is a row of F (R84). -/
theorem selected_eq_fPack {st : FsmState} {fire : Bool} {e e' : Mask} (h : selected st fire e = .fPack e') :
    st = .F := by
  cases st
  case F => rfl
  all_goals simp only [selected] at h; split_ifs at h

/-- A step runs F_PACK in F alone, and sampling hands it the buffer and the cursor as they stood. -/
theorem step_eq_exec_fPack_in_F (s : State) :
    ∃ i s', step s = exec i s' ∧ (∀ e, i = .fPack e → s.state = .F) ∧ s'.inputCount = s.inputCount ∧
      s'.buf = s.buf := by
  rcases step_cases s with ⟨_, h⟩ | ⟨_, _, h⟩ | ⟨_, h⟩ | ⟨_, hst, h⟩ | ⟨_, _, h⟩
  case inl | inr.inl => exact ⟨_, _, h, nofun, rfl, rfl⟩
  case inr.inr.inr.inl => exact ⟨_, _, h, fun _ hi => hst.trans (selected_eq_fPack hi), rfl, rfl⟩
  all_goals exact ⟨_, _, h, fun _ hi => selected_eq_fPack hi, rfl, rfl⟩

/-- Settles O52: the report is F_PACK's, whose recovery goes to P and keeps buffer and cursor. -/
theorem errorReportImpliesRecovery : Obligations.ErrorReportImpliesRecovery := by
  intro s t h herr
  obtain ⟨i, s', he, hF, hcount, hbuf⟩ := step_eq_exec_fPack_in_F s
  obtain ⟨⟨e, hi⟩, hcases⟩ := exec_err_cases (he ▸ h) herr
  rw [← hcount, ← hbuf]
  rcases hcases with ⟨h8, rfl⟩ | ⟨h8, hhole, rfl⟩
  · exact ⟨hF e hi, rfl, rfl, rfl, rfl, rfl, fun _ => h8, nofun⟩
  · exact ⟨hF e hi, rfl, rfl, rfl, rfl, rfl, nofun, fun _ => ⟨h8, (holeBelowCursor_iff s').1 hhole⟩⟩

/-- Settles O53: the report would need an unset entry below the cursor, which INV2 excludes. -/
theorem invariantViolatedIsUnreachable : Obligations.InvariantViolatedIsUnreachable := by
  intro s t hs h herr
  obtain ⟨_, _, _, _, _, _, _, hviolated⟩ := errorReportImpliesRecovery s t h (by simp [herr])
  obtain ⟨_, i, hi, hunset⟩ := hviolated herr
  exact hs.cursor.set_below i hi hunset

end Sys2Proof.Machine
end

section
/-! PROOFS. Reset (70_reset_and_hazards.md): RESET as one operation (R220), which writes every element (R221). -/

namespace Sys2Proof.Machine

/-- RESET completes from every state, in the reset state of the parameters; the `tick` pin is not examined and the
samples to come stay (R220). -/
theorem exec_reset (tk : Bool) (s : State) :
    exec (.reset tk) s = .next { State.resetWith s.params with pending := s.pending } :=
  congrArg Host.Outcome.next (goTo_resetElements s)

/-- Settles O18: RESET ends in the reset state, whose elements are those of R34 (O19). -/
theorem resetWritesEveryElement : Obligations.ResetWritesEveryElement := by
  refine ⟨decode_ctrl_reset false, decode_ctrl_reset true, fun s tk => ?_, fun _ _ _ => step_of_rst⟩
  obtain ⟨hmask, hhold, hbuf, hcount, hstate, hlast, hduty, hup⟩ := resetStateIsExactlyR34.2 s.params
  exact ⟨_, exec_reset tk s, hmask, hhold, hbuf, hcount, hlast, hduty, hup, hstate, rfl, rfl, rfl⟩

end Sys2Proof.Machine
end

section
/-! PROOFS. The model's choice for a clock edge past the listed pin samples (log entry 1): it is the NOTICK edge of
R161. -/

namespace Sys2Proof.Machine

/-- With no sample listed the pins are idle, so the edge forms the control word of NOTICK and samples nothing. -/
theorem fetch_takePins_nil {s : State} (hp : s.pending = []) :
    fetch (takePins s).1 (takePins s).2 = (.ctrl 0b00#2, s) := by
  rw [takePins_nil hp]
  exact fetch_notick s rfl rfl

/-- Settles O9: the edge runs NOTICK on the state as it stands (O7), and NOTICK changes no element (O20). -/
theorem noListedPinsIsNotick : Obligations.NoListedPinsIsNotick := by
  intro s hp
  obtain ⟨hdecode, hexec, _⟩ := notickChangesNothing
  have hrun := stepRunsDecodedOperation s .notick
  rw [fetch_takePins_nil hp] at hrun
  calc step s = exec .notick s := hrun hdecode
    _ = .next { s with out := Output.idle } := hexec s

end Sys2Proof.Machine
end
